-- ==== Sys2Proof/Word.lean ====
section
/-! DEFINITION. The word types of the flyback control core: the 32-bit operation word and register-space word (R82, R60),
the 16-bit immediate (R85), and the 16-bit cell that holds a register of at most sixteen bits (R20). -/

namespace Sys2Proof

/-- The 32-bit operation word (R82) and the 32-bit word an `RD` returns (R60). -/
abbrev Word := BitVec 32

/-- The unsigned 16-bit immediate `IMM` (R85). -/
abbrev Imm := BitVec 16

/-- The cell of a register of 16 bits, and of a register whose width is a `CFG` field of at most 16
(`RAW`, `ADCD`, `DEBI`, `DEBD`, `TCNT`; R20, R10): the bits above the width are 0 in every state that satisfies INV. -/
abbrev Cell := BitVec 16

end Sys2Proof
end

