-- ==== Sys2Proof/Config.lean ====
section
/-! DEFINITION. The immutable configuration record `CFG` (R9, R10), the named configurations P0 to P6 (R12), and the
free values: constants with no body, so that no proof can know what they are. -/

namespace Sys2Proof

/-- The fields of `CFG` (R10), all mathematical integers. A field whose legal range has no negative value is a `Nat`
(log entry 1). Legal ranges and bounds: `Cfg.WellFormed`. -/
structure Cfg where
  /-- `ADC_BITS`: resolution of RawReading -/
  adcBits : Nat
  /-- `TMR_BITS`: width of the control-period timer counter -/
  tmrBits : Nat
  /-- `Q`: the fixed-point scale -/
  q : Nat
  /-- `KP_COEF`: proportionalGain × Q -/
  kpCoef : Int
  /-- `KI_COEF`: integralGain × controlPeriodSeconds × Q, rounded offline -/
  kiCoef : Int
  /-- `KD_COEF`: derivativeGain × Q -/
  kdCoef : Int
  /-- `FF_COEF`: feed-forward coefficient on RawReading -/
  ffCoef : Int
  /-- `FF_BIAS`: feed-forward constant offset -/
  ffBias : Int
  /-- `SP_NUM` of scale(Setpoint) -/
  spNum : Nat
  /-- `SP_DEN` of scale(Setpoint) -/
  spDen : Nat
  /-- `OUT_NUM` of scale(rawOutput) -/
  outNum : Nat
  /-- `OUT_DEN` of scale(rawOutput) -/
  outDen : Nat
  /-- `I_LO`: lower integral clamp bound -/
  iLo : Int
  /-- `I_HI`: upper integral clamp bound -/
  iHi : Int
  /-- `PWM_PERIOD`: value of the period register -/
  pwmPeriod : Nat
  /-- `SP_MAX`: upper bound of Setpoint -/
  spMax : Nat
  /-- `SP_STEP`: setpoint increment -/
  spStep : Nat
  /-- `DEB_THRESH`: debounce threshold in control-period ticks -/
  debThresh : Nat
  /-- `DEB_BITS`: width of each debounce counter -/
  debBits : Nat
  /-- `DEB_MAX`: saturating maximum of the debounce counters -/
  debMax : Nat
  /-- `RESET_CYCLES`: tick count at which the integral is reset -/
  resetCycles : Nat
  /-- `T_NS`: control period in nanoseconds; read by no rule (R10, R214) -/
  tNs : Nat
deriving DecidableEq, Repr

/-- The reference configuration P0 (R12). -/
def Cfg.p0 : Cfg where
  adcBits := 10
  tmrBits := 8
  q := 65536
  kpCoef := 262144
  kiCoef := 336
  kdCoef := 0
  ffCoef := 0
  ffBias := 0
  spNum := 1
  spDen := 1
  outNum := 1
  outDen := 1
  iLo := -16711680
  iHi := 16711680
  pwmPeriod := 1024
  spMax := 1000
  spStep := 10
  debThresh := 100
  debBits := 8
  debMax := 255
  resetCycles := 488
  tNs := 2048000

/-- P1 (R12): P0 with `PWM_PERIOD = 256`. -/
def Cfg.p1 : Cfg := { Cfg.p0 with pwmPeriod := 256 }

/-- P2 (R12): P0 with `KD_COEF = 65536`. -/
def Cfg.p2 : Cfg := { Cfg.p0 with kdCoef := 65536 }

/-- P3 (R12): the decimal fixed-point format, `Q = 100000`. -/
def Cfg.p3 : Cfg :=
  { Cfg.p0 with q := 100000, kpCoef := 400000, kiCoef := 512, iLo := -25500000, iHi := 25500000 }

/-- P4 (R12): P0 with `DEB_THRESH = 3` and `RESET_CYCLES = 4`. -/
def Cfg.p4 : Cfg := { Cfg.p0 with debThresh := 3, resetCycles := 4 }

/-- P5 (R12): P0 with a feed-forward term. -/
def Cfg.p5 : Cfg := { Cfg.p0 with ffCoef := -32768, ffBias := 6553600 }

/-- P6 (R12): P0 with the scales `SP_NUM = 1023`, `SP_DEN = 1000`, `OUT_DEN = 4`. -/
def Cfg.p6 : Cfg := { Cfg.p0 with spNum := 1023, spDen := 1000, outDen := 4 }

namespace Config

/-- FREE VALUE (R64, U4; log entry 4): the word that the operation with the given number reads from the reserved
register index given second. -/
opaque reservedRead : Nat → Nat → BitVec 32

/-- FREE VALUE (R11, U3; log entry 6): what the operation with the given number leaves in a 16-bit register for a
computed integer that the register cannot hold. -/
opaque unstorable16 : Nat → Int → BitVec 16

/-- FREE VALUE (R11, U3; log entry 6): the same for a 32-bit register. -/
opaque unstorable32 : Nat → Int → BitVec 32

end Config

end Sys2Proof
end

