-- ==== Sys2Proof/Machine/Arith.lean ====
section
/-! DEFINITION. The arithmetic primitives of R14, over the mathematical integers (R13). -/

namespace Sys2Proof

/-- `fdiv(a, b)` of R14: the floor of `a / b` for `b > 0` (R15: rounding toward minus infinity). -/
def fdiv (a b : Int) : Int := Int.fdiv a b

/-- `clamp(v, lo, hi)` of R14, for `lo ≤ hi`. -/
def clamp (v lo hi : Int) : Int :=
  if v < lo then lo else if hi < v then hi else v

end Sys2Proof
end

