-- ==== Sys2Proof/Syntax.lean ====
section
/-! DEFINITION. The thirteen operations (R84), their formats (R83), the sixteen register-space names (R61, R93), and the
six ways in which a word encodes no operation (R88). -/

namespace Sys2Proof

/-- A register-space index by name (R61, R93). `r13`, `r14`, `r15` are the reserved indexes (R64). -/
inductive Reg where
  | raw | sp | duty | period | integ | perr | scnt | debi
  | debd | status | adcd | tcnt | pcnt | r13 | r14 | r15
deriving DecidableEq, Repr

/-- The operations of the block, one constructor per row of R84. -/
inductive Instr where
  /-- `NOP` (R170) -/
  | nop
  /-- `RST` (R171) -/
  | rst
  /-- `ADCDONE d` (R111) -/
  | adcdone (d : Imm)
  /-- `CONV d` (R113) -/
  | conv (d : Imm)
  /-- `INCEDGE` (R123) -/
  | incedge
  /-- `DECEDGE` (R124) -/
  | decedge
  /-- `INC` (R125) -/
  | inc
  /-- `DEC` (R126) -/
  | dec
  /-- `TCLK n` (R161) -/
  | tclk (n : Imm)
  /-- `TICK` (R163) -/
  | tick
  /-- `PCLK n` (R152) -/
  | pclk (n : Imm)
  /-- `SVC` (R172) -/
  | svc
  /-- `RD reg` (R173) -/
  | rd (reg : Reg)
deriving DecidableEq, Repr

/-- The thirteen operation codes, without operands (R84). -/
inductive Opcode where
  | nop | rst | adcdone | conv | incedge | decedge | inc | dec | tclk | tick | pclk | svc | rd
deriving DecidableEq, Repr

/-- The three formats (R83): no operand, immediate, register. -/
inductive Format where
  | n | i | r
deriving DecidableEq, Repr

/-- Why a word encodes no operation: the cases 1 to 6 of R88, in the order in which they are tested. -/
inductive NoOperation where
  /-- case 1: `w[23:16] ≠ 0` -/
  | zeroFieldNotZero
  /-- case 2: `w[31:28] ≥ 0xD` (R89) -/
  | reservedOpcode
  /-- case 3: format N and `w[27:0] ≠ 0` -/
  | operandInFormatN
  /-- case 4: format I and `w[27:24] ≠ 0` -/
  | regInFormatI
  /-- case 5: format R and `w[15:0] ≠ 0` -/
  | immInFormatR
  /-- case 6: a sample `≥ 2^ADC_BITS` (R85) -/
  | sampleOutOfRange
deriving DecidableEq, Repr

end Sys2Proof
end

