-- ==== Sys2Proof/WellFormed.lean ====
section
/-! DEFINITION. When a configuration is well formed (R10, R11) and when an operation is one that can happen under it
(R85). Both are decidable. -/

namespace Sys2Proof

/-- `RAW_MAX = 2^ADC_BITS − 1` (R11). -/
def Cfg.rawMax (c : Cfg) : Int := 2 ^ c.adcBits - 1

/-- `E_HI`, the largest error (R11). -/
def Cfg.eHi (c : Cfg) : Int := fdiv (c.spMax * c.spNum) c.spDen

/-- `E_LO`, the smallest error (R11). -/
def Cfg.eLo (c : Cfg) : Int := -c.rawMax

/-- `E_ABS = max(E_HI, RAW_MAX)` (R11). -/
def Cfg.eAbs (c : Cfg) : Int := max c.eHi c.rawMax

/-- `D_ABS = E_HI + RAW_MAX`, the largest `|error − previousError|` (R11). -/
def Cfg.dAbs (c : Cfg) : Int := c.eHi + c.rawMax

/-- `I_ABS = max(−I_LO, I_HI)` (R11). -/
def Cfg.iAbs (c : Cfg) : Int := max (-c.iLo) c.iHi

/-- Every field is in its legal range (R10). -/
abbrev Cfg.InRange (c : Cfg) : Prop :=
  (8 ≤ c.adcBits ∧ c.adcBits ≤ 16) ∧ (1 ≤ c.tmrBits ∧ c.tmrBits ≤ 16) ∧ 1 ≤ c.q ∧
  (1 ≤ c.spNum ∧ 1 ≤ c.spDen) ∧ (1 ≤ c.outNum ∧ 1 ≤ c.outDen) ∧ (c.iLo ≤ 0 ∧ 0 ≤ c.iHi) ∧
  (1 ≤ c.pwmPeriod ∧ c.pwmPeriod ≤ 65535) ∧ c.spMax ≤ 32767 ∧ (1 ≤ c.spStep ∧ c.spStep ≤ 32767) ∧
  (1 ≤ c.debBits ∧ c.debBits ≤ 16) ∧ (c.debThresh ≤ c.debMax ∧ c.debMax ≤ 2 ^ c.debBits - 1) ∧
  (1 ≤ c.resetCycles ∧ c.resetCycles ≤ 65535) ∧ 0 < c.tNs

/-- Bound V0 (R11). -/
abbrev Cfg.BoundV0 (c : Cfg) : Prop := (c.spMax : Int) * c.spNum ≤ 2 ^ 31 - 1

/-- Bound V1 (R11): the accumulation of R132 fits a signed 32-bit register. -/
abbrev Cfg.BoundV1 (c : Cfg) : Prop := c.iAbs + c.kiCoef.natAbs * c.eAbs ≤ 2 ^ 31 - 1

/-- Bound V2 (R11): the output sum of R135, scaled, fits a signed 32-bit register. -/
abbrev Cfg.BoundV2 (c : Cfg) : Prop :=
  (c.kpCoef.natAbs * c.eAbs + c.iAbs + c.kdCoef.natAbs * c.dAbs + c.ffCoef.natAbs * c.rawMax +
    c.ffBias.natAbs) * c.outNum ≤ 2 ^ 31 - 1

/-- `CFG` is well formed (R11). -/
abbrev Cfg.WellFormed (c : Cfg) : Prop := c.InRange ∧ c.BoundV0 ∧ c.BoundV1 ∧ c.BoundV2

/-- The sample `d` is one the converter can produce: `d < 2^ADC_BITS` (R8, R85). -/
def Cfg.sampleOk (c : Cfg) (d : Imm) : Bool := decide (d.toNat < 2 ^ c.adcBits)

/-- The operation can happen under `CFG` (R85, R90): its sample, if it has one, is in range. Every other operand value
is legal (R86, R87). -/
def Instr.wf (c : Cfg) : Instr → Bool
  | .nop => true
  | .rst => true
  | .adcdone d => c.sampleOk d
  | .conv d => c.sampleOk d
  | .incedge => true
  | .decedge => true
  | .inc => true
  | .dec => true
  | .tclk _ => true
  | .tick => true
  | .pclk _ => true
  | .svc => true
  | .rd _ => true

end Sys2Proof
end

