-- ==== Sys2Proof/Decode.lean ====
section
/-! DEFINITION. The decoder of R88, total on every 32-bit word and refusing by name, the encoder of R82, and the match
and mask words of the operation table R84. -/

namespace Sys2Proof

/-- `OPC = w[31:28]` (R82). -/
def opcField (w : Word) : BitVec 4 := w.extractLsb' 28 4

/-- `REG = w[27:24]` (R82, R87). -/
def regField (w : Word) : BitVec 4 := w.extractLsb' 24 4

/-- `ZERO = w[23:16]` (R82). -/
def zeroField (w : Word) : BitVec 8 := w.extractLsb' 16 8

/-- `IMM = w[15:0]` (R82, R85). -/
def immField (w : Word) : Imm := w.extractLsb' 0 16

/-- The operation code of R84; `none` for the reserved values 0xD, 0xE, 0xF (R89). -/
def Opcode.ofBits (b : BitVec 4) : Option Opcode :=
  match b.toNat with
  | 0 => some .nop
  | 1 => some .rst
  | 2 => some .adcdone
  | 3 => some .conv
  | 4 => some .incedge
  | 5 => some .decedge
  | 6 => some .inc
  | 7 => some .dec
  | 8 => some .tclk
  | 9 => some .tick
  | 10 => some .pclk
  | 11 => some .svc
  | 12 => some .rd
  | _ => none

/-- The `OPC` value of an operation code (R84). -/
def Opcode.toBits : Opcode → BitVec 4
  | .nop => 0x0#4
  | .rst => 0x1#4
  | .adcdone => 0x2#4
  | .conv => 0x3#4
  | .incedge => 0x4#4
  | .decedge => 0x5#4
  | .inc => 0x6#4
  | .dec => 0x7#4
  | .tclk => 0x8#4
  | .tick => 0x9#4
  | .pclk => 0xA#4
  | .svc => 0xB#4
  | .rd => 0xC#4

/-- The format of each operation code (R83, R84). -/
def Opcode.format : Opcode → Format
  | .nop => .n
  | .rst => .n
  | .adcdone => .i
  | .conv => .i
  | .incedge => .n
  | .decedge => .n
  | .inc => .n
  | .dec => .n
  | .tclk => .i
  | .tick => .n
  | .pclk => .i
  | .svc => .n
  | .rd => .r

/-- The `match` column of R84. -/
def Opcode.matchWord : Opcode → Word
  | .nop => 0x00000000#32
  | .rst => 0x10000000#32
  | .adcdone => 0x20000000#32
  | .conv => 0x30000000#32
  | .incedge => 0x40000000#32
  | .decedge => 0x50000000#32
  | .inc => 0x60000000#32
  | .dec => 0x70000000#32
  | .tclk => 0x80000000#32
  | .tick => 0x90000000#32
  | .pclk => 0xA0000000#32
  | .svc => 0xB0000000#32
  | .rd => 0xC0000000#32

/-- The `mask` column of R84. -/
def Opcode.maskWord : Opcode → Word
  | .nop => 0xFFFFFFFF#32
  | .rst => 0xFFFFFFFF#32
  | .adcdone => 0xFFFF0000#32
  | .conv => 0xFFFF0000#32
  | .incedge => 0xFFFFFFFF#32
  | .decedge => 0xFFFFFFFF#32
  | .inc => 0xFFFFFFFF#32
  | .dec => 0xFFFFFFFF#32
  | .tclk => 0xFFFF0000#32
  | .tick => 0xFFFFFFFF#32
  | .pclk => 0xFFFF0000#32
  | .svc => 0xFFFFFFFF#32
  | .rd => 0xF0FFFFFF#32

/-- The register name of an index (R61, R87): all sixteen values decode. -/
def Reg.ofBits (b : BitVec 4) : Reg :=
  match b.toNat with
  | 0 => .raw
  | 1 => .sp
  | 2 => .duty
  | 3 => .period
  | 4 => .integ
  | 5 => .perr
  | 6 => .scnt
  | 7 => .debi
  | 8 => .debd
  | 9 => .status
  | 10 => .adcd
  | 11 => .tcnt
  | 12 => .pcnt
  | 13 => .r13
  | 14 => .r14
  | _ => .r15

/-- The index of a register name (R61). -/
def Reg.toBits : Reg → BitVec 4
  | .raw => 0#4
  | .sp => 1#4
  | .duty => 2#4
  | .period => 3#4
  | .integ => 4#4
  | .perr => 5#4
  | .scnt => 6#4
  | .debi => 7#4
  | .debd => 8#4
  | .status => 9#4
  | .adcd => 10#4
  | .tcnt => 11#4
  | .pcnt => 12#4
  | .r13 => 13#4
  | .r14 => 14#4
  | .r15 => 15#4

/-- Cases 3, 4 and 5 of R88: a field that the format requires to be 0 is not 0. -/
def formatFault (f : Format) (w : Word) : Option NoOperation :=
  match f with
  | .n => if w.extractLsb' 0 28 = 0#28 then none else some .operandInFormatN
  | .i => if regField w = 0#4 then none else some .regInFormatI
  | .r => if immField w = 0#16 then none else some .immInFormatR

/-- The operation with this code and these operand fields; a field its format does not use is left out (R84). -/
def Opcode.operation (o : Opcode) (imm : Imm) (reg : Reg) : Instr :=
  match o with
  | .nop => .nop
  | .rst => .rst
  | .adcdone => .adcdone imm
  | .conv => .conv imm
  | .incedge => .incedge
  | .decedge => .decedge
  | .inc => .inc
  | .dec => .dec
  | .tclk => .tclk imm
  | .tick => .tick
  | .pclk => .pclk imm
  | .svc => .svc
  | .rd => .rd reg

/-- The decoder (R88): the six refusing cases in their order, then case 7. -/
def decode (c : Cfg) (w : Word) : Except NoOperation Instr :=
  if zeroField w ≠ 0#8 then .error .zeroFieldNotZero
  else
    match Opcode.ofBits (opcField w) with
    | none => .error .reservedOpcode
    | some o =>
      match formatFault o.format w with
      | some r => .error r
      | none =>
        if (o.operation (immField w) (Reg.ofBits (regField w))).wf c then
          .ok (o.operation (immField w) (Reg.ofBits (regField w)))
        else .error .sampleOutOfRange

/-- The operation code of an operation (R84). -/
def Instr.opcode : Instr → Opcode
  | .nop => .nop
  | .rst => .rst
  | .adcdone _ => .adcdone
  | .conv _ => .conv
  | .incedge => .incedge
  | .decedge => .decedge
  | .inc => .inc
  | .dec => .dec
  | .tclk _ => .tclk
  | .tick => .tick
  | .pclk _ => .pclk
  | .svc => .svc
  | .rd _ => .rd

/-- The `IMM` field of an operation; 0 where the format has none (R83, R88). -/
def Instr.immBits : Instr → Imm
  | .nop => 0#16
  | .rst => 0#16
  | .adcdone d => d
  | .conv d => d
  | .incedge => 0#16
  | .decedge => 0#16
  | .inc => 0#16
  | .dec => 0#16
  | .tclk n => n
  | .tick => 0#16
  | .pclk n => n
  | .svc => 0#16
  | .rd _ => 0#16

/-- The `REG` field of an operation; 0 where the format has none (R83, R88). -/
def Instr.regBits : Instr → BitVec 4
  | .nop => 0#4
  | .rst => 0#4
  | .adcdone _ => 0#4
  | .conv _ => 0#4
  | .incedge => 0#4
  | .decedge => 0#4
  | .inc => 0#4
  | .dec => 0#4
  | .tclk _ => 0#4
  | .tick => 0#4
  | .pclk _ => 0#4
  | .svc => 0#4
  | .rd reg => reg.toBits

/-- The encoder (R88): the fields placed as in R82, every unused field 0. -/
def encode (i : Instr) : Word :=
  i.opcode.toBits ++ i.regBits ++ 0#8 ++ i.immBits

/-- What the decoder reads, under P0, from the operation word `w` of `nbits` bits (bits above are 0). -/
def decodeTableWord (nbits w : Nat) : Option Instr :=
  (decode Cfg.p0 (BitVec.ofNat 32 (w % 2 ^ nbits))).toOption

end Sys2Proof
end

