-- ==== Sys2Proof/Machine/Elements.lean ====
section
/-! DEFINITION. The fourteen state elements of R20 and their reset values (R40). -/

namespace Sys2Proof.Machine

/-- The state elements of the block: exactly the fourteen of R20. A register whose width is a field of `CFG` stands in a
16-bit cell (log entry 8). -/
structure Elements where
  /-- `RAW`, ADC_BITS bits, unsigned (R21) -/
  raw : Cell
  /-- `ADCD`, ADC_BITS bits, unsigned (R22) -/
  adcd : Cell
  /-- `ADC_RUN`, one flag (R23) -/
  adcRun : Bool
  /-- `SP`, 16 bits, signed (R24) -/
  sp : BitVec 16
  /-- `PERR`, 32 bits, signed (R25) -/
  perr : BitVec 32
  /-- `INTEG`, 32 bits, signed (R26) -/
  integ : BitVec 32
  /-- `SCNT`, 16 bits, unsigned (R27) -/
  scnt : BitVec 16
  /-- `DEBI`, DEB_BITS bits, unsigned (R28) -/
  debi : Cell
  /-- `DEBD`, DEB_BITS bits, unsigned (R28) -/
  debd : Cell
  /-- `DUTY`, 16 bits, unsigned (R29) -/
  duty : BitVec 16
  /-- `PERIOD`, 16 bits, unsigned (R30) -/
  period : BitVec 16
  /-- `PCNT`, 16 bits, unsigned (R31) -/
  pcnt : BitVec 16
  /-- `TCNT`, TMR_BITS bits, unsigned (R33) -/
  tcnt : Cell
  /-- `IFR`, the four pending flags (R34) -/
  ifr : BitVec 4
deriving DecidableEq, Repr

/-- The reset values of R40: 0 for every element except `ADC_RUN` and `PERIOD`. -/
def Elements.reset (c : Cfg) : Elements where
  raw := 0#16
  adcd := 0#16
  adcRun := true
  sp := 0#16
  perr := 0#32
  integ := 0#32
  scnt := 0#16
  debi := 0#16
  debd := 0#16
  duty := 0#16
  period := BitVec.ofNat 16 c.pwmPeriod
  pcnt := 0#16
  tcnt := 0#16
  ifr := 0#4

/-- The output ports that an operation drives (R14, R80): `out.adc_start`, false unless written, and `out.rd_data`,
absent unless the operation is an `RD`. The third output, `pwm_out`, is combinational: `State.pwmOut`. -/
structure Outputs where
  adcStart : Bool
  rdData : Option Word
deriving DecidableEq, Repr

/-- The outputs of an operation that writes none (R14). -/
def Outputs.quiet : Outputs where
  adcStart := false
  rdData := none

/-- The outputs of `RST` (R171): the first conversion is requested. -/
def Outputs.afterReset : Outputs where
  adcStart := true
  rdData := none

end Sys2Proof.Machine
end

