-- ==== Sys2Proof/Machine/State.lean ====
section
/-! DEFINITION. The machine's state: the fourteen elements of the spec (R20) and, beside them, the parameter `CFG`
(R35), the outputs of the last operation (R14), the trace still to be applied (R17) and the counter of the free values;
then the reasons a step can stop, and the state after reset. -/

namespace Sys2Proof.Machine

/-- The state. Only `el` is state of the spec (R20); the other fields are the model's own (log entries 1 to 4). -/
structure State where
  /-- the parameter `CFG` (R9, R35): written by no operation (log entry 1) -/
  cfg : Cfg
  /-- the fourteen state elements (R20) -/
  el : Elements
  /-- the output ports of the last operation (R14, R80; log entry 3) -/
  out : Outputs
  /-- the operation words that the agents of R6 apply next, the first one first (R17; log entry 2) -/
  trace : List Word
  /-- how many operations have run: the index of the free values (log entry 4) -/
  ops : Nat
deriving DecidableEq, Repr

/-- The block has no fault (R18, R180): no operation raises one. -/
inductive Fault
deriving DecidableEq, Repr

/-- Why the model refuses to go on. R18: an ill-formed `CFG` and a word that encodes no operation, nothing else in a
reachable state; and U1's refusal, which no reachable state meets. -/
inductive Refusal where
  /-- Raised by an arm of `exec` whose operation has no meaning yet; no arm is left that does. Safe. -/
  | notModelled (mnemonic : String)
  /-- `CFG` is not well formed, so the spec gives the block no meaning (R11, R203, U3). Raised by `step` and by every
  meaning. Safe: the model stops. -/
  | illFormedConfig
  /-- The word encodes no operation (R90, U5), for the case of R88 named. Raised by `step` for a word of the trace, and
  with `sampleOutOfRange` by `ADCDONE` and `CONV` on a sample the converter cannot produce (R85). Safe: the model stops. -/
  | noOperation (why : NoOperation)
  /-- `DUTY` is not below `PERIOD`, so the spec gives the actuator no behaviour and `PWM_OUT` no value (R156, U1; log entry
  5). Raised by `PCLK` and by `RD STATUS` (in `RD`, by an index whose word has no value). Safe: the model stops, and no
  state satisfying INV raises it. -/
  | dutyNotBelowPeriod
deriving DecidableEq, Repr

/-- The machine right after reset (R40, R171, R201), under the reference configuration P0 (log entry 1), with no operation
yet to be applied (log entry 2). -/
def State.reset : State where
  cfg := Cfg.p0
  el := Elements.reset Cfg.p0
  out := Outputs.afterReset
  trace := []
  ops := 0

end Sys2Proof.Machine
end

