-- ==== Sys2Proof/Machine/Ops.lean ====
section
/-! DEFINITION. The named operations the meanings share: storing a computed integer in a register (R13), the start and
the guard of an operation (R14, R11), entering a handler (R188), and taking the next operation word of the trace. -/

namespace Sys2Proof.Machine

/-- Store an integer, never negative, in an unsigned 16-bit register (R13). Where it does not fit, which no state
satisfying INV reaches, a free value (R11, U3; log entry 6). `k` numbers the operation. -/
def storeU16 (k : Nat) (v : Nat) : BitVec 16 :=
  if v < 2 ^ 16 then BitVec.ofNat 16 v else Config.unstorable16 k v

/-- The same for an integer and a signed 16-bit register (R13). -/
def storeS16 (k : Nat) (v : Int) : BitVec 16 :=
  if -2 ^ 15 ≤ v ∧ v < 2 ^ 15 then BitVec.ofInt 16 v else Config.unstorable16 k v

/-- The same for a signed 32-bit register (R13). -/
def storeS32 (k : Nat) (v : Int) : BitVec 32 :=
  if -2 ^ 31 ≤ v ∧ v < 2 ^ 31 then BitVec.ofInt 32 v else Config.unstorable32 k v

/-- An operation begins: its outputs are quiet unless it writes them (R14), and it has a draw of its own (log entry 4). -/
def State.startOp (s : State) : State :=
  { s with out := Outputs.quiet, ops := s.ops + 1 }

/-- One atomic operation (R187): refused under an ill-formed `CFG` (R11), otherwise exactly one next state (R18). -/
def operate (s : State) (effect : State → State) : Host.Outcome State Fault Refusal :=
  if s.cfg.WellFormed then .next (effect s.startOp) else .refused .illFormedConfig

/-- An operation to which the spec gives a meaning only where `stated` holds: elsewhere it is refused, for the reason
`why`. -/
def operateWhen (stated : Bool) (why : Refusal) (s : State) (effect : State → State) :
    Host.Outcome State Fault Refusal :=
  if s.cfg.WellFormed then
    if stated then .next (effect s.startOp) else .refused why
  else .refused .illFormedConfig

/-- An operation that carries the sample `d`: a sample the converter cannot produce is not an input (R85, R90). -/
def operateSample (d : Imm) (s : State) (effect : State → State) : Host.Outcome State Fault Refusal :=
  operateWhen (s.cfg.sampleOk d) (.noOperation .sampleOutOfRange) s effect

/-- The next operation word of the trace and the state in which it is no longer waiting (log entry 2). -/
def State.takeWord (s : State) : Option (Word × State) :=
  match s.trace with
  | [] => none
  | w :: rest => some (w, { s with trace := rest })

end Sys2Proof.Machine
end

