-- ==== Sys2Proof/Machine/Flags.lean ====
section
/-! DEFINITION. The flags: the four pending flags of `IFR` (R34, R182), the fixed priority (R185), the combinational
output `PWM_OUT` (R32, R153) and the `STATUS` word (R62). The block has no condition codes (R38). -/

namespace Sys2Proof.Machine

/-- The four event sources (R181). -/
inductive Event where
  /-- control-period timer overflow: `TICKF`, `IFR[0]` -/
  | tick
  /-- conversion complete: `CONVF`, `IFR[1]` -/
  | conv
  /-- increase edge: `INCF`, `IFR[2]` -/
  | inc
  /-- decrease edge: `DECF`, `IFR[3]` -/
  | dec
deriving DecidableEq, Repr

/-- The bit of `IFR` that is the flag of an event, alone (R34). -/
def Event.mask : Event → BitVec 4
  | .tick => 0b0001#4
  | .conv => 0b0010#4
  | .inc => 0b0100#4
  | .dec => 0b1000#4

/-- The flag of an event in `IFR` (R34). -/
def pending (ifr : BitVec 4) (ev : Event) : Bool := decide (ifr &&& ev.mask ≠ 0#4)

/-- An event sets its flag; a flag that is 1 stays 1 (R182, R183). -/
def setFlag (ifr : BitVec 4) (ev : Event) : BitVec 4 := ifr ||| ev.mask

/-- A flag is set if its event happened, and otherwise left as it was (R182). -/
def setFlagIf (happened : Bool) (ifr : BitVec 4) (ev : Event) : BitVec 4 :=
  if happened then setFlag ifr ev else ifr

/-- The dispatcher clears the one flag it serves (R186). -/
def clearFlag (ifr : BitVec 4) (ev : Event) : BitVec 4 := ifr &&& ~~~ev.mask

/-- The pending event served first: `TICKF`, then `CONVF`, then `INCF`, then `DECF` (R185). -/
def highestPending (ifr : BitVec 4) : Option Event :=
  if pending ifr .tick then some .tick
  else if pending ifr .conv then some .conv
  else if pending ifr .inc then some .inc
  else if pending ifr .dec then some .dec
  else none

/-- An event becomes pending (R182): only its flag changes. -/
def State.raiseEvent (s : State) (ev : Event) : State :=
  { s with el := { s.el with ifr := setFlag s.el.ifr ev } }

/-- Entering a handler saves nothing and changes nothing but the flag, which is cleared (R186, R188). There is no return
operation: a handler ends and nothing is restored (R190). -/
def State.enterHandler (s : State) (ev : Event) : State :=
  { s with el := { s.el with ifr := clearFlag s.el.ifr ev } }

/-- `DUTY < PERIOD`: the only states over which the actuator is stated (R155, R156, U1; log entry 5). It is no check that
the actuator does (R155), but where the spec gives it a behaviour; INV (R39) implies it. -/
def State.actuatorStated (s : State) : Bool := decide (s.el.duty < s.el.period)

/-- The combinational output `PWM_OUT` (R32, R153). Where `DUTY` is not below `PERIOD`, which is unreachable, the rule is
not evaluated and there is no value (R156, U1). -/
def State.pwmOut (s : State) : Option Bool :=
  if s.actuatorStated then some (decide (s.el.pcnt < s.el.duty)) else none

/-- The `STATUS` word (R62): `IFR` in bits 3:0, `ADC_RUN` in bit 4, `PWM_OUT` in bit 5, 0 above. No word where `PWM_OUT` has
no value (U1). -/
def State.statusWord (s : State) : Option Word :=
  s.pwmOut.map fun b => 0#26 ++ BitVec.ofBool b ++ BitVec.ofBool s.el.adcRun ++ s.el.ifr

end Sys2Proof.Machine
end

