-- ==== Sys2Proof/Machine/Operands.lean ====
section
/-! DEFINITION. The operand forms: the sample and its two parts (R22, R63, R85), and the repetition count of the two
counters (R86, R152, R161). -/

namespace Sys2Proof.Machine

/-- The low part `v[7:0]` of a sample (R22). -/
def lowPart (v : Cell) : BitVec 8 := v.extractLsb' 0 8

/-- The high part `v[ADC_BITS−1:8]` of a sample (R22), as an unsigned value. -/
def highPart (c : Cfg) (v : Cell) : Nat := v.toNat / 2 ^ 8 % 2 ^ (c.adcBits - 8)

/-- `{high part, low part}`: the single RawReading the sampler forms (R63, R112). -/
def combineParts (c : Cfg) (v : Cell) : Cell := BitVec.ofNat 16 (highPart c v * 256 + (lowPart v).toNat)

/-- The value of a counter of `m` states 0 to `m − 1` after `n` counts from `v`: each count steps up by one and wraps at
`m` (R152, R161; computed at once: log entry 12, DEDUCED). From a value that is no state of the counter the counts only step
up (log entry 7). -/
def countUp (m v n : Nat) : Nat := if v < m then (v + n) % m else v + n

/-- Whether those counts wrap at least once (R161). -/
def countWraps (m v n : Nat) : Bool := decide (v < m ∧ m ≤ v + n)

end Sys2Proof.Machine
end

