-- ==== Sys2Proof/Machine/Pwm.lean ====
section
/-! DEFINITION. The PWM Actuator: the operation `PCLK` (spec/43_pwm_actuator.md). Its output is `State.pwmOut`. -/

namespace Sys2Proof.Machine

/-- `n` counts of the PWM counter (R152): it has `PERIOD` states (R151). -/
def pwmCount (n : Imm) (s : State) : State :=
  { s with el := { s.el with
      pcnt := storeU16 s.ops (countUp s.el.period.toNat s.el.pcnt.toNat n.toNat) } }

/-- `PCLK n` (R152), stated only where `DUTY < PERIOD` (R156, U1; log entry 5). -/
def execPclk (n : Imm) (s : State) : Host.Outcome State Fault Refusal :=
  operateWhen s.actuatorStated .dutyNotBelowPeriod s (pwmCount n)

end Sys2Proof.Machine
end

