-- ==== Sys2Proof/Machine/RegisterSpace.lean ====
section
/-! DEFINITION. The register space (spec/20_memory.md R60 to R64): sixteen read-only 32-bit words, computed from the
state. -/

namespace Sys2Proof.Machine

/-- `x[i]` (R61), if it has a value: `STATUS` has none where `PWM_OUT` has none (R156, U1; log entry 5). The reserved indexes
read a free value (R64, U4; log entry 4). Signed registers are in two's complement (log entry 14, PRESUMED). -/
def registerSpace (s : State) : Reg → Option Word
  | .raw => some (s.el.raw.zeroExtend 32)
  | .sp => some (s.el.sp.signExtend 32)
  | .duty => some (s.el.duty.zeroExtend 32)
  | .period => some (s.el.period.zeroExtend 32)
  | .integ => some s.el.integ
  | .perr => some s.el.perr
  | .scnt => some (s.el.scnt.zeroExtend 32)
  | .debi => some (s.el.debi.zeroExtend 32)
  | .debd => some (s.el.debd.zeroExtend 32)
  | .status => s.statusWord
  | .adcd => some (s.el.adcd.zeroExtend 32)
  | .tcnt => some (s.el.tcnt.zeroExtend 32)
  | .pcnt => some (s.el.pcnt.zeroExtend 32)
  | .r13 => some (Config.reservedRead s.ops 13)
  | .r14 => some (Config.reservedRead s.ops 14)
  | .r15 => some (Config.reservedRead s.ops 15)

end Sys2Proof.Machine
end

