-- ==== Sys2Proof/Machine/Sampler.lean ====
section
/-! DEFINITION. The Feedback Sampler: the handler H_CONV and the operations `ADCDONE` and `CONV`
(spec/40_feedback_sampler.md). -/

namespace Sys2Proof.Machine

/-- H_CONV (R112): `RAW <- {ADCD[ADC_BITS−1:8], ADCD[7:0]}` in one write, `ADC_RUN <- 1`, `adc_start` pulses. -/
def hConv (s : State) : State :=
  { s with
    el := { s.el with raw := combineParts s.cfg s.el.adcd, adcRun := true }
    out := { s.out with adcStart := true } }

/-- A sample arrives in the data latch (R111, R113). -/
def State.latchSample (s : State) (d : Imm) : State := { s with el := { s.el with adcd := d } }

/-- The conversion-complete event (R111): the latch takes the sample, the request is over, `CONVF` is set. -/
def conversionDone (d : Imm) (s : State) : State :=
  { s with el := { s.el with adcd := d, adcRun := false, ifr := setFlag s.el.ifr .conv } }

/-- `ADCDONE d` (R111). -/
def execAdcdone (d : Imm) (s : State) : Host.Outcome State Fault Refusal :=
  operateSample d s (conversionDone d)

/-- `CONV d` (R113): the latch takes the sample, then H_CONV reads it. -/
def execConv (d : Imm) (s : State) : Host.Outcome State Fault Refusal :=
  operateSample d s (fun t => hConv (t.latchSample d))

end Sys2Proof.Machine
end

