-- ==== Sys2Proof/Machine/Pid.lean ====
section
/-! DEFINITION. The PID Controller: the seven steps of the invocation H_PID, one definition per rule, over the
mathematical integers (spec/42_pid_controller.md). -/

namespace Sys2Proof.Machine

/-- `sp_s`, the setpoint in ADC counts (R131). -/
def pidSpS (s : State) : Int := fdiv (s.el.sp.toInt * s.cfg.spNum) s.cfg.spDen

/-- `e`, the error (R131). -/
def pidE (s : State) : Int := pidSpS s - s.el.raw.toNat

/-- `acc1`, the accumulation (R132). -/
def pidAcc1 (s : State) : Int := s.el.integ.toInt + pidE s * s.cfg.kiCoef

/-- `acc2`, the anti-windup clamp (R133). -/
def pidAcc2 (s : State) : Int := clamp (pidAcc1 s) s.cfg.iLo s.cfg.iHi

/-- `d`, the derivative (R134). -/
def pidD (s : State) : Int := pidE s - s.el.perr.toInt

/-- `raw`, the output sum (R135). -/
def pidRaw (s : State) : Int :=
  s.cfg.kpCoef * pidE s + pidAcc2 s + s.cfg.kdCoef * pidD s + s.cfg.ffCoef * s.el.raw.toNat + s.cfg.ffBias

/-- `out`, the scaled output (R136). -/
def pidOut (s : State) : Int := fdiv (pidRaw s * s.cfg.outNum) (s.cfg.q * s.cfg.outDen)

/-- `cnt`, the sample counter after this invocation (R138). -/
def pidCnt (s : State) : Nat := s.el.scnt.toNat + 1

/-- The value step 5 writes into the compare register (R136). With `PERIOD = 0`, which is unreachable, the clamp has no
value (R14 requires `lo ≤ hi`) and neither has this (log entry 6). -/
def pidDuty (s : State) : BitVec 16 :=
  if 1 ≤ s.el.period.toNat then storeU16 s.ops (clamp (pidOut s) 0 (s.el.period.toNat - 1)).toNat
  else Config.unstorable16 s.ops (pidOut s)

/-- What step 7 leaves in the integral (R138): 0 when the sample counter reaches `RESET_CYCLES`, else the clamped
accumulation of R133. -/
def pidInteg (s : State) : BitVec 32 :=
  if pidCnt s = s.cfg.resetCycles then 0#32 else storeS32 s.ops (pidAcc2 s)

/-- What step 7 leaves in the sample counter (R138). -/
def pidScnt (s : State) : BitVec 16 :=
  if pidCnt s = s.cfg.resetCycles then 0#16 else storeU16 s.ops (pidCnt s)

/-- H_PID (R130, R139): writes `DUTY` (R136), `PERR` (R137), `INTEG` and `SCNT` (R138), all at once. -/
def hPid (s : State) : State :=
  { s with
    el := { s.el with
      duty := pidDuty s
      perr := storeS32 s.ops (pidE s)
      integ := pidInteg s
      scnt := pidScnt s } }

end Sys2Proof.Machine
end

