-- ==== Sys2Proof/Machine/Setpoint.lean ====
section
/-! DEFINITION. The Setpoint Store: the ageing AGE, the handlers H_INC and H_DEC, and the operations `INCEDGE`, `DECEDGE`,
`INC` and `DEC` (spec/41_setpoint_store.md). -/

namespace Sys2Proof.Machine

/-- One debounce counter aged by one control period, saturating at `DEB_MAX` (R120). -/
def agedCounter (k : Nat) (c : Cfg) (v : Cell) : Cell := storeU16 k (min (v.toNat + 1) c.debMax)

/-- AGE (R120). -/
def hAge (s : State) : State :=
  { s with el := { s.el with debi := agedCounter s.ops s.cfg s.el.debi, debd := agedCounter s.ops s.cfg s.el.debd } }

/-- The acceptance test of H_INC (R121). -/
def incAccepted (s : State) : Bool :=
  decide (s.cfg.debThresh ≤ s.el.debi.toNat ∧ s.el.sp.toInt + s.cfg.spStep ≤ s.cfg.spMax)

/-- The acceptance test of H_DEC (R122). -/
def decAccepted (s : State) : Bool :=
  decide (s.cfg.debThresh ≤ s.el.debd.toNat ∧ 0 ≤ s.el.sp.toInt - s.cfg.spStep)

/-- H_INC (R121): a rejection changes no state element. -/
def hInc (s : State) : State :=
  if incAccepted s then
    { s with el := { s.el with sp := storeS16 s.ops (s.el.sp.toInt + s.cfg.spStep), debi := 0#16 } }
  else s

/-- H_DEC (R122): a rejection changes no state element. -/
def hDec (s : State) : State :=
  if decAccepted s then
    { s with el := { s.el with sp := storeS16 s.ops (s.el.sp.toInt - s.cfg.spStep), debd := 0#16 } }
  else s

/-- `INCEDGE` (R123). -/
def execIncedge (s : State) : Host.Outcome State Fault Refusal := operate s (fun t => t.raiseEvent .inc)

/-- `DECEDGE` (R124). -/
def execDecedge (s : State) : Host.Outcome State Fault Refusal := operate s (fun t => t.raiseEvent .dec)

/-- `INC` (R125): H_INC, exactly. -/
def execInc (s : State) : Host.Outcome State Fault Refusal := operate s hInc

/-- `DEC` (R126): H_DEC, exactly. -/
def execDec (s : State) : Host.Outcome State Fault Refusal := operate s hDec

end Sys2Proof.Machine
end

