-- ==== Sys2Proof/Machine/Scheduler.lean ====
section
/-! DEFINITION. The Control Scheduler: the timer, the handler H_TICK, and the operations `TCLK` and `TICK`
(spec/44_control_scheduler.md). -/

namespace Sys2Proof.Machine

/-- `n` counts of the control-period timer (R160, R161): each wrap sets `TICKF`; no handler runs. -/
def timerCount (n : Imm) (s : State) : State :=
  { s with el := { s.el with
      tcnt := storeU16 s.ops (countUp (2 ^ s.cfg.tmrBits) s.el.tcnt.toNat n.toNat)
      ifr := setFlagIf (countWraps (2 ^ s.cfg.tmrBits) s.el.tcnt.toNat n.toNat) s.el.ifr .tick } }

/-- H_TICK (R162): AGE and H_PID, whose reads and writes are disjoint. -/
def hTick (s : State) : State := hPid (hAge s)

/-- `TCLK n` (R161). -/
def execTclk (n : Imm) (s : State) : Host.Outcome State Fault Refusal := operate s (timerCount n)

/-- `TICK` (R163): H_TICK, exactly. -/
def execTick (s : State) : Host.Outcome State Fault Refusal := operate s hTick

end Sys2Proof.Machine
end

