-- ==== Sys2Proof/Machine/System.lean ====
section
/-! DEFINITION. The system and host operations `NOP`, `RST`, `SVC` and `RD` (spec/45_system_host.md) and the dispatch step
(spec/60_exceptions.md R186). -/

namespace Sys2Proof.Machine

/-- The handler wired to an event (R181, R186). -/
def handler (ev : Event) (s : State) : State :=
  match ev with
  | .tick => hTick s
  | .conv => hConv s
  | .inc => hInc s
  | .dec => hDec s

/-- The dispatch step (R186): the highest-priority pending flag is cleared and its handler runs; nothing if none is. -/
def dispatchStep (s : State) : State :=
  match highestPending s.el.ifr with
  | none => s
  | some ev => handler ev (s.enterHandler ev)

/-- Reset (R171): every state element takes its reset value and the first conversion is requested. `CFG` stays (R35;
log entry 18). -/
def resetAll (s : State) : State :=
  { s with el := Elements.reset s.cfg, out := Outputs.afterReset }

/-- A host read (R173): `out.rd_data` is the word; no state element changes. -/
def readRegister (reg : Reg) (s : State) : State :=
  { s with out := { s.out with rdData := registerSpace s reg } }

/-- `NOP` (R170). -/
def execNop (s : State) : Host.Outcome State Fault Refusal := operate s id

/-- `RST` (R171). -/
def execRst (s : State) : Host.Outcome State Fault Refusal := operate s resetAll

/-- `SVC` (R172): the dispatch step. -/
def execSvc (s : State) : Host.Outcome State Fault Refusal := operate s dispatchStep

/-- `RD reg` (R173). A word that has no value is not read: `STATUS` where `DUTY` is not below `PERIOD` (R156, U1; log entry
5). -/
def execRd (reg : Reg) (s : State) : Host.Outcome State Fault Refusal :=
  operateWhen (registerSpace s reg).isSome .dutyNotBelowPeriod s (readRegister reg)

end Sys2Proof.Machine
end

