-- ==== Sys2Proof/Machine/Dispatch.lean ====
section
/-! DEFINITION. The dispatch of every operation to its meaning, one arm per row of R84. -/

namespace Sys2Proof.Machine

def exec (i : Instr) (s : State) : Host.Outcome State Fault Refusal :=
  match i with
  | .nop => Sys2Proof.Machine.execNop s
  | .rst => Sys2Proof.Machine.execRst s
  | .adcdone d => Sys2Proof.Machine.execAdcdone d s
  | .conv d => Sys2Proof.Machine.execConv d s
  | .incedge => Sys2Proof.Machine.execIncedge s
  | .decedge => Sys2Proof.Machine.execDecedge s
  | .inc => Sys2Proof.Machine.execInc s
  | .dec => Sys2Proof.Machine.execDec s
  | .tclk n => Sys2Proof.Machine.execTclk n s
  | .tick => Sys2Proof.Machine.execTick s
  | .pclk n => Sys2Proof.Machine.execPclk n s
  | .svc => Sys2Proof.Machine.execSvc s
  | .rd reg => Sys2Proof.Machine.execRd reg s

end Sys2Proof.Machine
end

