-- ==== Sys2Proof/Machine/Step.lean ====
section
/-! DEFINITION. One step of the machine: the next operation word of the trace is taken, decoded (R88) and performed. -/

namespace Sys2Proof.Machine

/-- One step. An ill-formed `CFG` is refused (R11). With no word waiting the block is idle and nothing changes (R17, R37:
no operation ends a run; log entry 2). A word that encodes no operation is refused (R90). Otherwise the operation is
performed, whole (R187). -/
def step (s : State) : Host.Outcome State Fault Refusal :=
  if s.cfg.WellFormed then
    match s.takeWord with
    | none => .next s
    | some (w, t) =>
      match decode t.cfg w with
      | .error why => .refused (.noOperation why)
      | .ok i => exec i t
  else .refused .illFormedConfig

/-- The state `s` with the operation word `w` (of `nbits` bits, the bits above 0) put first in the trace. -/
def State.withFetchWord (s : State) (nbits w : Nat) : State :=
  { s with trace := BitVec.ofNat 32 (w % 2 ^ nbits) :: s.trace }

end Sys2Proof.Machine
end

