-- ==== Sys2Proof/Machine/TraceText.lean ====
section
/-! DEFINITION. The written form of a trace (R93): lines of characters read as operations, and operations written as
lines. Characters, not strings, so that the kernel can evaluate both. -/

namespace Sys2Proof

/-- The mnemonic of R84 and R93, upper case. -/
def Opcode.text : Opcode → List Char
  | .nop => ['N', 'O', 'P']
  | .rst => ['R', 'S', 'T']
  | .adcdone => ['A', 'D', 'C', 'D', 'O', 'N', 'E']
  | .conv => ['C', 'O', 'N', 'V']
  | .incedge => ['I', 'N', 'C', 'E', 'D', 'G', 'E']
  | .decedge => ['D', 'E', 'C', 'E', 'D', 'G', 'E']
  | .inc => ['I', 'N', 'C']
  | .dec => ['D', 'E', 'C']
  | .tclk => ['T', 'C', 'L', 'K']
  | .tick => ['T', 'I', 'C', 'K']
  | .pclk => ['P', 'C', 'L', 'K']
  | .svc => ['S', 'V', 'C']
  | .rd => ['R', 'D']

/-- The thirteen operation codes (R84). -/
def Opcode.all : List Opcode :=
  [.nop, .rst, .adcdone, .conv, .incedge, .decedge, .inc, .dec, .tclk, .tick, .pclk, .svc, .rd]

/-- The register names of R93. -/
def Reg.text : Reg → List Char
  | .raw => ['R', 'A', 'W']
  | .sp => ['S', 'P']
  | .duty => ['D', 'U', 'T', 'Y']
  | .period => ['P', 'E', 'R', 'I', 'O', 'D']
  | .integ => ['I', 'N', 'T', 'E', 'G']
  | .perr => ['P', 'E', 'R', 'R']
  | .scnt => ['S', 'C', 'N', 'T']
  | .debi => ['D', 'E', 'B', 'I']
  | .debd => ['D', 'E', 'B', 'D']
  | .status => ['S', 'T', 'A', 'T', 'U', 'S']
  | .adcd => ['A', 'D', 'C', 'D']
  | .tcnt => ['T', 'C', 'N', 'T']
  | .pcnt => ['P', 'C', 'N', 'T']
  | .r13 => ['R', '1', '3']
  | .r14 => ['R', '1', '4']
  | .r15 => ['R', '1', '5']

/-- The sixteen register names (R61). -/
def Reg.all : List Reg :=
  [.raw, .sp, .duty, .period, .integ, .perr, .scnt, .debi, .debd, .status, .adcd, .tcnt, .pcnt, .r13, .r14, .r15]

/-- The value of a decimal digit. -/
def decDigit (ch : Char) : Option Nat :=
  if 48 ≤ ch.toNat ∧ ch.toNat ≤ 57 then some (ch.toNat - 48) else none

/-- The value of a hexadecimal digit, upper or lower case (log entry 11). -/
def hexDigit (ch : Char) : Option Nat :=
  if 48 ≤ ch.toNat ∧ ch.toNat ≤ 57 then some (ch.toNat - 48)
  else if 65 ≤ ch.toNat ∧ ch.toNat ≤ 70 then some (ch.toNat - 55)
  else if 97 ≤ ch.toNat ∧ ch.toNat ≤ 102 then some (ch.toNat - 87)
  else none

/-- The digits of a number in a base, onto the value read so far. -/
def readDigits (base : Nat) (digit : Char → Option Nat) : List Char → Nat → Option Nat
  | [], v => some v
  | ch :: rest, v =>
    match digit ch with
    | none => none
    | some d => readDigits base digit rest (v * base + d)

/-- `number ::= decimal digits | "0x" hex digits` (R93), at least one digit. -/
def readNumber (t : List Char) : Option Nat :=
  match t with
  | [] => none
  | '0' :: 'x' :: rest => if rest.isEmpty then none else readDigits 16 hexDigit rest 0
  | other => readDigits 10 decDigit other 0

/-- `"#" number`, for a number that fits `IMM` (R85, R93). -/
def readImm (t : List Char) : Option Imm :=
  match t with
  | '#' :: rest =>
    match readNumber rest with
    | none => none
    | some v => if v < 2 ^ 16 then some (BitVec.ofNat 16 v) else none
  | _ => none

/-- A register name (R93). -/
def readReg (t : List Char) : Option Reg := Reg.all.find? (fun r => decide (r.text = t))

/-- A mnemonic (R93). -/
def readOpcode (t : List Char) : Option Opcode := Opcode.all.find? (fun o => decide (o.text = t))

/-- The words of a line, separated by blanks (log entry 11); `acc` is the word being read, last character first. -/
def splitBlanks : List Char → List Char → List (List Char)
  | [], acc => if acc.isEmpty then [] else [acc.reverse]
  | ch :: rest, acc =>
    if ch = ' ' ∨ ch = '\t' then
      if acc.isEmpty then splitBlanks rest [] else acc.reverse :: splitBlanks rest []
    else splitBlanks rest (ch :: acc)

/-- The operation that a mnemonic and its operand words stand for (R83, R93). -/
def readOperation (o : Opcode) (operands : List (List Char)) : Option Instr :=
  match o.format, operands with
  | .n, [] => some (o.operation 0#16 .raw)
  | .i, [t] => (readImm t).map (fun imm => o.operation imm .raw)
  | .r, [t] => (readReg t).map (fun reg => o.operation 0#16 reg)
  | _, _ => none

/-- One line of a trace (R93): a mnemonic, its operand, and a comment from `;` on. -/
def readLine (line : List Char) : Option Instr :=
  match splitBlanks (line.takeWhile (fun ch => decide (ch ≠ ';'))) [] with
  | [] => none
  | m :: operands => (readOpcode m).bind (fun o => readOperation o operands)

/-- The operation word a line stands for (R82, R93). -/
def assembleLine (line : List Char) : Option Word := (readLine line).map encode

/-- The operation words of a written trace, one line each (R93); `none` if a line is no operation. -/
def assembleTrace (lines : List (List Char)) : Option (List Word) := lines.mapM assembleLine

/-- An operation as a line of a trace (R93), its number in decimal. -/
def Instr.text : Instr → List Char
  | .nop => Opcode.nop.text
  | .rst => Opcode.rst.text
  | .adcdone d => Opcode.adcdone.text ++ ' ' :: '#' :: Nat.toDigits 10 d.toNat
  | .conv d => Opcode.conv.text ++ ' ' :: '#' :: Nat.toDigits 10 d.toNat
  | .incedge => Opcode.incedge.text
  | .decedge => Opcode.decedge.text
  | .inc => Opcode.inc.text
  | .dec => Opcode.dec.text
  | .tclk n => Opcode.tclk.text ++ ' ' :: '#' :: Nat.toDigits 10 n.toNat
  | .tick => Opcode.tick.text
  | .pclk n => Opcode.pclk.text ++ ' ' :: '#' :: Nat.toDigits 10 n.toNat
  | .svc => Opcode.svc.text
  | .rd reg => Opcode.rd.text ++ ' ' :: reg.text

end Sys2Proof
end

