-- ==== Sys2Proof/Machine/Trace.lean ====
section
/-! DEFINITION. Traces: a list of operations applied in order (R17, R70), what happens along it, the pseudo-operations of
R94, and the operations that the input ports of one instant stand for (R80, R81). -/

namespace Sys2Proof.Machine

/-- The operations of a trace applied in order (R70), stopping at the first fault or refusal. -/
def execAll : List Instr → State → Host.Outcome State Fault Refusal
  | [], s => .next s
  | i :: l, s =>
    match exec i s with
    | .next t => execAll l t
    | .fault r => .fault r
    | .refused r => .refused r

/-- A quantity of each operation and the state it meets, summed along a trace. -/
def sumAlong (f : Instr → State → Nat) : List Instr → State → Nat
  | [], _ => 0
  | i :: l, s =>
    match exec i s with
    | .next t => f i s + sumAlong f l t
    | .fault _ => 0
    | .refused _ => 0

/-- A condition on each operation and the state it meets, along a trace. -/
def holdsAlong (p : Instr → State → Bool) : List Instr → State → Bool
  | [], _ => true
  | i :: l, s =>
    p i s &&
      match exec i s with
      | .next t => holdsAlong p l t
      | .fault _ => true
      | .refused _ => true

/-- The event whose handler the operation runs, if any: the direct operations run theirs (R182), `SVC` the one of the
highest-priority pending event (R185, R186). -/
def handlerRun (i : Instr) (s : State) : Option Event :=
  match i with
  | .nop => none
  | .rst => none
  | .adcdone _ => none
  | .conv _ => some .conv
  | .incedge => none
  | .decedge => none
  | .inc => some .inc
  | .dec => some .dec
  | .tclk _ => none
  | .tick => some .tick
  | .pclk _ => none
  | .svc => highestPending s.el.ifr
  | .rd _ => none

/-- 1 if the operation runs H_TICK, else 0. -/
def tickRuns (i : Instr) (s : State) : Nat := if handlerRun i s = some .tick then 1 else 0

/-- 1 if the operation is an accepted adjustment of the increase button (R121), else 0. -/
def incAcceptances (i : Instr) (s : State) : Nat :=
  if handlerRun i s = some .inc ∧ incAccepted s then 1 else 0

/-- 1 if the operation is an accepted adjustment of the decrease button (R122), else 0. -/
def decAcceptances (i : Instr) (s : State) : Nat :=
  if handlerRun i s = some .dec ∧ decAccepted s then 1 else 0

/-- How many times `TCNT` wraps during the operation (R161). -/
def timerWraps (i : Instr) (s : State) : Nat :=
  match i with
  | .nop => 0
  | .rst => 0
  | .adcdone _ => 0
  | .conv _ => 0
  | .incedge => 0
  | .decedge => 0
  | .inc => 0
  | .dec => 0
  | .tclk n => (s.el.tcnt.toNat + n.toNat) / 2 ^ s.cfg.tmrBits
  | .tick => 0
  | .pclk _ => 0
  | .svc => 0
  | .rd _ => 0

/-- `PWM_OUT` (R153) after `k` more counts of the PWM clock (R152), where it has a value (R156). -/
def pwmOutAfter (k : Nat) (s : State) : Option Bool :=
  match exec (.pclk (BitVec.ofNat 16 k)) s with
  | .next t => t.pwmOut
  | .fault _ => none
  | .refused _ => none

/-- The pseudo-operations of R94. -/
inductive Pseudo where
  | ticks (k : Nat)
  | periodt
  | sample (d : Imm)
  | pressi
  | pressd
  | drain
  | pwmcycle
deriving DecidableEq, Repr

/-- The operations a pseudo-operation abbreviates (R94). -/
def Pseudo.expand (c : Cfg) : Pseudo → List Instr
  | .ticks k => List.replicate k .tick
  | .periodt =>
    if c.tmrBits < 16 then [.tclk (BitVec.ofNat 16 (2 ^ c.tmrBits)), .svc]
    else [.tclk 32768#16, .tclk 32768#16, .svc]
  | .sample d => [.adcdone d, .svc]
  | .pressi => [.incedge, .svc]
  | .pressd => [.decedge, .svc]
  | .drain => [.svc, .svc, .svc, .svc]
  | .pwmcycle => [.pclk (BitVec.ofNat 16 c.pwmPeriod)]

/-- The input ports in one instant (R80). `adc_hi`, `ADC_BITS − 8` bits wide, stands in an 8-bit cell. -/
structure Inputs where
  rst : Bool
  adcDone : Bool
  adcLo : BitVec 8
  adcHi : BitVec 8
  tmrClk : Bool
  incEdge : Bool
  decEdge : Bool
  pwmClk : Bool
  rdEn : Bool
  rdAddr : BitVec 4
deriving DecidableEq, Repr

/-- The operation of a port, if its pulse is there. -/
def pulse (present : Bool) (i : Instr) : List Instr := if present then [i] else []

/-- The operations that one instant stands for, in the order of R81: the `SVC` if the dispatcher serves in that instant,
then the read, then the other pulses (their order is free: log entry 10), and reset last. -/
def Inputs.operations (p : Inputs) (serve : Bool) : List Instr :=
  List.flatten
    [pulse serve .svc, pulse p.rdEn (.rd (Reg.ofBits p.rdAddr)), pulse p.adcDone (.adcdone (p.adcHi ++ p.adcLo)),
      pulse p.tmrClk (.tclk 1#16), pulse p.incEdge .incedge, pulse p.decEdge .decedge, pulse p.pwmClk (.pclk 1#16),
      pulse p.rst .rst]

/-- The five operations that stand for a pulse on an input port other than `rd_en` and `rst` (R80, R81). -/
def isPulse (i : Instr) : Bool :=
  match i with
  | .nop => false
  | .rst => false
  | .adcdone _ => true
  | .conv _ => false
  | .incedge => true
  | .decedge => true
  | .inc => false
  | .dec => false
  | .tclk _ => true
  | .tick => false
  | .pclk _ => true
  | .svc => false
  | .rd _ => false

/-- The operations of the host and of the idle foreground loop (R175). -/
def isHostOrIdle (i : Instr) : Bool :=
  match i with
  | .nop => true
  | .rst => false
  | .adcdone _ => false
  | .conv _ => false
  | .incedge => false
  | .decedge => false
  | .inc => false
  | .dec => false
  | .tclk _ => false
  | .tick => false
  | .pclk _ => false
  | .svc => false
  | .rd _ => true

end Sys2Proof.Machine
end

