-- ==== Sys2Proof/Safety.lean ====
section
/-! DEFINITION. What claims about the block speak of: the invariant INV of the reachable states (R39), and the
environment's assumptions EA1 (R205), EA2 (R206) and fairness (R186), which are premises of a claim and are enforced by
nothing in the block. -/

namespace Sys2Proof.Machine

/-- INV on the state elements (R39). -/
abbrev Elements.Inv (c : Cfg) (e : Elements) : Prop :=
  e.raw.toNat < 2 ^ c.adcBits ∧ e.adcd.toNat < 2 ^ c.adcBits ∧
  (0 ≤ e.sp.toInt ∧ e.sp.toInt ≤ c.spMax) ∧ (c.eLo ≤ e.perr.toInt ∧ e.perr.toInt ≤ c.eHi) ∧
  (c.iLo ≤ e.integ.toInt ∧ e.integ.toInt ≤ c.iHi) ∧ e.scnt.toNat < c.resetCycles ∧
  e.debi.toNat ≤ c.debMax ∧ e.debd.toNat ≤ c.debMax ∧ e.period.toNat = c.pwmPeriod ∧
  e.duty.toNat < e.period.toNat ∧ e.pcnt.toNat < e.period.toNat ∧ e.tcnt.toNat < 2 ^ c.tmrBits

/-- INV under a well-formed `CFG` (R39, R203): a run starts in such a state. -/
abbrev State.Inv (s : State) : Prop := s.cfg.WellFormed ∧ s.el.Inv s.cfg

/-- EA1 at one operation (R205): a conversion completes only when one was requested (log entry 17, DEDUCED). -/
def ea1Holds (i : Instr) (s : State) : Bool :=
  match i with
  | .nop => true
  | .rst => true
  | .adcdone _ => s.el.adcRun
  | .conv _ => true
  | .incedge => true
  | .decedge => true
  | .inc => true
  | .dec => true
  | .tclk _ => true
  | .tick => true
  | .pclk _ => true
  | .svc => true
  | .rd _ => true

/-- EA2 at one operation (R206): every wrap of `TCNT` finds `TICKF = 0`; so an operation wraps it at most once (log entry
17, DEDUCED). -/
def ea2Holds (i : Instr) (s : State) : Bool :=
  decide (timerWraps i s = 0 ∨ (timerWraps i s = 1 ∧ pending s.el.ifr .tick = false))

/-- The event layer (R84): what the hardware does, without the four handlers invoked directly (log entry
17, DEDUCED). -/
def isEventLayer (i : Instr) : Bool :=
  match i with
  | .nop => true
  | .rst => true
  | .adcdone _ => true
  | .conv _ => false
  | .incedge => true
  | .decedge => true
  | .inc => false
  | .dec => false
  | .tclk _ => true
  | .tick => false
  | .pclk _ => true
  | .svc => true
  | .rd _ => true

/-- An endless run (R17): operation `ops n` takes state `states n` to state `states (n + 1)`. -/
def IsRun (ops : Nat → Instr) (states : Nat → State) : Prop :=
  ∀ n, exec (ops n) (states n) = .next (states (n + 1))

/-- Fairness (R186, U9): a flag that is set is eventually served, or forgotten by a reset. -/
def Fair (ops : Nat → Instr) (states : Nat → State) : Prop :=
  ∀ n ev, pending (states n).el.ifr ev = true →
    ∃ m, n ≤ m ∧ (ops m = .rst ∨ (ops m = .svc ∧ highestPending (states m).el.ifr = some ev))

end Sys2Proof.Machine
end

