-- ==== Sys2Proof/Certificates/Slice0/Obligations.lean ====
section
/-! DEFINITION. The statements for the provers. Each says in its docstring which rule of the spec it formalises, or that it
is the model's own choice or an inference the spec marks as its own. -/

open Sys2Proof Sys2Proof.Machine

/-! ### A step, the configuration, reset -/

/-- The model's own reading of a run (log entry 2; R17, R70): a step takes the first word of the trace and performs the
operation it encodes, on the state in which that word is no longer waiting. -/
def Obligations.StepPerformsDecodedOperation : Prop :=
  ∀ (s : State) (w : Word) (rest : List Word) (i : Instr),
    s.trace = w :: rest → decode s.cfg w = .ok i → step s = exec i { s with trace := rest }

/-- The model's own reading of a run (log entry 2; R17, R70): as many steps as the trace has words perform its operations
in their order, each on the state the one before it left, and stop where an operation is refused. -/
def Obligations.StepsPerformTheTraceInOrder : Prop :=
  ∀ (l : List Instr) (rest : List Word) (s : State),
    (∀ i ∈ l, i.wf s.cfg = true) → s.trace = l.map encode ++ rest →
      Sys2Proof.core.run l.length s = execAll l { s with trace := rest }

/-- The model's choice (log entry 2): with no word waiting the block is idle and the step changes nothing. -/
def Obligations.IdleStepChangesNothing : Prop :=
  ∀ s : State, s.cfg.WellFormed → s.trace = [] → step s = .next s

/-- R90: a trace with a word that encodes no operation is refused, for the case of R88 that applies; it is never executed
as `NOP`. -/
def Obligations.UndecodedWordIsRefused : Prop :=
  ∀ (s : State) (w : Word) (rest : List Word) (why : NoOperation),
    s.cfg.WellFormed → s.trace = w :: rest → decode s.cfg w = .error why →
      step s = .refused (.noOperation why)

/-- R11: a `CFG` that is not well formed is refused, by a step and by every operation. -/
def Obligations.IllFormedConfigIsRefused : Prop :=
  ∀ s : State, ¬ s.cfg.WellFormed →
    step s = .refused .illFormedConfig ∧ ∀ i : Instr, exec i s = .refused .illFormedConfig

/-- R85, R90: a sample the converter cannot produce is not an input. -/
def Obligations.OutOfRangeSampleIsRefused : Prop :=
  ∀ (s : State) (d : Imm), s.cfg.WellFormed → 2 ^ s.cfg.adcBits ≤ d.toNat →
    exec (.adcdone d) s = .refused (.noOperation .sampleOutOfRange) ∧
    exec (.conv d) s = .refused (.noOperation .sampleOutOfRange)

/-- R12: the configurations P0 to P6 are well formed. -/
def Obligations.NamedConfigurationsAreWellFormed : Prop :=
  ∀ c ∈ [Cfg.p0, Cfg.p1, Cfg.p2, Cfg.p3, Cfg.p4, Cfg.p5, Cfg.p6], c.WellFormed

/-- The spec's own inference (the sentence of rule 39 marked derived): INV holds in the reset state, for every well-formed
`CFG`. State.reset takes P0, the model's choice (log entry 1). -/
def Obligations.ResetSatisfiesInvariant : Prop :=
  State.reset.Inv ∧ ∀ c : Cfg, c.WellFormed → (Elements.reset c).Inv c

/-! ### Encoding -/

/-- R82 to R84, on words of the decoding table of spec/95_test_vectors.md 2.7, at least one for each family. -/
def Obligations.WrittenOutWordsDecode : Prop :=
  decode Cfg.p0 0x00000000#32 = .ok .nop ∧ decode Cfg.p0 0x10000000#32 = .ok .rst ∧
  decode Cfg.p0 0x200003FF#32 = .ok (.adcdone 1023#16) ∧ decode Cfg.p0 0x30000200#32 = .ok (.conv 512#16) ∧
  decode Cfg.p0 0x40000000#32 = .ok .incedge ∧ decode Cfg.p0 0x70000000#32 = .ok .dec ∧
  decode Cfg.p0 0x8000FFFF#32 = .ok (.tclk 65535#16) ∧ decode Cfg.p0 0x90000000#32 = .ok .tick ∧
  decode Cfg.p0 0xA0000400#32 = .ok (.pclk 1024#16) ∧ decode Cfg.p0 0xB0000000#32 = .ok .svc ∧
  decode Cfg.p0 0xC9000000#32 = .ok (.rd .status) ∧ decode Cfg.p0 0xCF000000#32 = .ok (.rd .r15) ∧
  decode Cfg.p0 0x20000400#32 = .error .sampleOutOfRange ∧ decode Cfg.p0 0xC2000001#32 = .error .immInFormatR

/-- The first identity of R88 (an inference the spec marks as its own): decode after encode is the identity, for every
operation, every operand value the encoding admits and every configuration. -/
def Obligations.DecodeAfterEncodeIsIdentity : Prop :=
  ∀ (c : Cfg) (i : Instr), i.wf c = true → decode c (encode i) = .ok i

/-- The second identity of R88 (an inference the spec marks as its own): encode after decode is the identity on the words
that encode an operation, and what is decoded can happen. -/
def Obligations.EncodeAfterDecodeIsIdentity : Prop :=
  ∀ (c : Cfg) (w : Word) (i : Instr), decode c w = .ok i → encode i = w ∧ i.wf c = true

/-- R84: a word encodes an operation of a row iff `(w AND mask) = match` and the row's side condition holds. -/
def Obligations.DecodeAgreesWithOperationTable : Prop :=
  ∀ (c : Cfg) (w : Word) (o : Opcode),
    (∃ i, decode c w = .ok i ∧ i.opcode = o) ↔
      (w &&& o.maskWord = o.matchWord ∧
        (o = .adcdone ∨ o = .conv → (w.extractLsb' 0 16).toNat < 2 ^ c.adcBits))

/-- R88, cases 1 to 6: which words encode no operation, and for which reason, the cases tested in order. -/
def Obligations.RefusedWordsFollowTheSixCases : Prop :=
  ∀ (c : Cfg) (w : Word),
    (w.extractLsb' 16 8 ≠ 0#8 → decode c w = .error .zeroFieldNotZero) ∧
    (w.extractLsb' 16 8 = 0#8 →
      (13 ≤ (w.extractLsb' 28 4).toNat → decode c w = .error .reservedOpcode) ∧
      ((w.extractLsb' 28 4).toNat ∈ [0, 1, 4, 5, 6, 7, 9, 11] → w.extractLsb' 0 28 ≠ 0#28 →
        decode c w = .error .operandInFormatN) ∧
      ((w.extractLsb' 28 4).toNat ∈ [2, 3, 8, 10] → w.extractLsb' 24 4 ≠ 0#4 →
        decode c w = .error .regInFormatI) ∧
      ((w.extractLsb' 28 4).toNat = 12 → w.extractLsb' 0 16 ≠ 0#16 → decode c w = .error .immInFormatR) ∧
      ((w.extractLsb' 28 4).toNat ∈ [2, 3] → w.extractLsb' 24 4 = 0#4 →
        2 ^ c.adcBits ≤ (w.extractLsb' 0 16).toNat → decode c w = .error .sampleOutOfRange))

/-- R89. -/
def Obligations.ReservedOpcodesEncodeNothing : Prop :=
  ∀ (c : Cfg) (w : Word), (w.extractLsb' 28 4).toNat ∈ [0xD, 0xE, 0xF] → ∃ why, decode c w = .error why

/-- R93: every operation, written as a line of a trace, is read back as itself (the number in decimal and one blank before
the operand are the model's choice, log entry 11). -/
def Obligations.WrittenTraceLineReadsBack : Prop :=
  ∀ i : Instr, readLine i.text = some i

/-! ### What each operation does -/

/-- R170. -/
def Obligations.NopChangesNothing : Prop :=
  ∀ s : State, s.cfg.WellFormed →
    decode s.cfg 0x00000000#32 = .ok .nop ∧
    ∃ t, exec .nop s = .next t ∧ t.el = s.el ∧ t.out = ⟨false, none⟩ ∧ t.cfg = s.cfg ∧ t.trace = s.trace

/-- R171 with the values of R40, from any state. -/
def Obligations.ResetGivesResetValues : Prop :=
  ∀ s : State, s.cfg.WellFormed →
    decode s.cfg 0x10000000#32 = .ok .rst ∧
    ∃ t, exec .rst s = .next t ∧
      t.el.raw = 0#16 ∧ t.el.adcd = 0#16 ∧ t.el.adcRun = true ∧ t.el.sp = 0#16 ∧ t.el.perr = 0#32 ∧
      t.el.integ = 0#32 ∧ t.el.scnt = 0#16 ∧ t.el.debi = 0#16 ∧ t.el.debd = 0#16 ∧ t.el.duty = 0#16 ∧
      t.el.period.toNat = s.cfg.pwmPeriod ∧ t.el.pcnt = 0#16 ∧ t.el.tcnt = 0#16 ∧ t.el.ifr = 0b0000#4 ∧
      t.out = ⟨true, none⟩ ∧ t.cfg = s.cfg ∧ t.trace = s.trace

/-- R111: the data latch, the end of the request and the flag, and no other state element. -/
def Obligations.AdcdoneLatchesSampleAndSetsConvf : Prop :=
  ∀ (s : State) (d : Imm), s.cfg.WellFormed → d.toNat < 2 ^ s.cfg.adcBits →
    decode s.cfg (0x2000#16 ++ d) = .ok (.adcdone d) ∧
    ∃ t, exec (.adcdone d) s = .next t ∧
      t.el = { s.el with adcd := d, adcRun := false, ifr := s.el.ifr ||| 0b0010#4 } ∧
      t.out = ⟨false, none⟩ ∧ t.cfg = s.cfg ∧ t.trace = s.trace

/-- R113 through H_CONV of R112: the latch and `RAW` take the sample, the next conversion is requested. -/
def Obligations.ConvStoresSampleAndRearms : Prop :=
  ∀ (s : State) (d : Imm), s.cfg.WellFormed → d.toNat < 2 ^ s.cfg.adcBits →
    decode s.cfg (0x3000#16 ++ d) = .ok (.conv d) ∧
    ∃ t, exec (.conv d) s = .next t ∧
      t.el = { s.el with adcd := d, raw := d, adcRun := true } ∧
      t.out = ⟨true, none⟩ ∧ t.cfg = s.cfg ∧ t.trace = s.trace

/-- R123. -/
def Obligations.IncedgeSetsIncfOnly : Prop :=
  ∀ s : State, s.cfg.WellFormed →
    decode s.cfg 0x40000000#32 = .ok .incedge ∧
    ∃ t, exec .incedge s = .next t ∧ t.el = { s.el with ifr := s.el.ifr ||| 0b0100#4 } ∧
      t.out = ⟨false, none⟩ ∧ t.cfg = s.cfg ∧ t.trace = s.trace

/-- R124. -/
def Obligations.DecedgeSetsDecfOnly : Prop :=
  ∀ s : State, s.cfg.WellFormed →
    decode s.cfg 0x50000000#32 = .ok .decedge ∧
    ∃ t, exec .decedge s = .next t ∧ t.el = { s.el with ifr := s.el.ifr ||| 0b1000#4 } ∧
      t.out = ⟨false, none⟩ ∧ t.cfg = s.cfg ∧ t.trace = s.trace

/-- R125 and R121: accepted, or rejected with no state change. -/
def Obligations.IncAdjustsOrRejects : Prop :=
  ∀ s : State, s.cfg.WellFormed →
    decode s.cfg 0x60000000#32 = .ok .inc ∧
    ∃ t, exec .inc s = .next t ∧
      (if s.cfg.debThresh ≤ s.el.debi.toNat ∧ s.el.sp.toInt + s.cfg.spStep ≤ s.cfg.spMax then
        t.el.sp.toInt = s.el.sp.toInt + s.cfg.spStep ∧ t.el = { s.el with sp := t.el.sp, debi := 0#16 }
      else t.el = s.el) ∧
      t.out = ⟨false, none⟩ ∧ t.cfg = s.cfg ∧ t.trace = s.trace

/-- R126 and R122: accepted, or rejected with no state change. -/
def Obligations.DecAdjustsOrRejects : Prop :=
  ∀ s : State, s.cfg.WellFormed →
    decode s.cfg 0x70000000#32 = .ok .dec ∧
    ∃ t, exec .dec s = .next t ∧
      (if s.cfg.debThresh ≤ s.el.debd.toNat ∧ 0 ≤ s.el.sp.toInt - s.cfg.spStep then
        t.el.sp.toInt = s.el.sp.toInt - s.cfg.spStep ∧ t.el = { s.el with sp := t.el.sp, debd := 0#16 }
      else t.el = s.el) ∧
      t.out = ⟨false, none⟩ ∧ t.cfg = s.cfg ∧ t.trace = s.trace

/-- R161's counts of the timer, `n` of them in the closed form of log entry 12 (DEDUCED: R152 gives that form for the PWM
counter, the spec gives none for the timer): the sum modulo 2^TMR_BITS, `TICKF` set when it reaches 2^TMR_BITS, and no handler
runs. -/
def Obligations.TclkCountsAndSetsTickf : Prop :=
  ∀ (s : State) (n : Imm), s.cfg.WellFormed → s.el.tcnt.toNat < 2 ^ s.cfg.tmrBits →
    decode s.cfg (0x8000#16 ++ n) = .ok (.tclk n) ∧
    ∃ t, exec (.tclk n) s = .next t ∧
      t.el.tcnt.toNat = (s.el.tcnt.toNat + n.toNat) % 2 ^ s.cfg.tmrBits ∧
      t.el = { s.el with
        tcnt := t.el.tcnt
        ifr := if 2 ^ s.cfg.tmrBits ≤ s.el.tcnt.toNat + n.toNat then s.el.ifr ||| 0b0001#4 else s.el.ifr } ∧
      t.out = ⟨false, none⟩ ∧ t.cfg = s.cfg ∧ t.trace = s.trace

/-- R152: `n` counts of the PWM counter and nothing else, in the states over which R156 states the actuator. -/
def Obligations.PclkCountsModuloPeriod : Prop :=
  ∀ (s : State) (n : Imm), s.cfg.WellFormed → s.el.duty < s.el.period → s.el.pcnt.toNat < s.el.period.toNat →
    decode s.cfg (0xA000#16 ++ n) = .ok (.pclk n) ∧
    ∃ t, exec (.pclk n) s = .next t ∧
      t.el.pcnt.toNat = (s.el.pcnt.toNat + n.toNat) % s.el.period.toNat ∧
      t.el = { s.el with pcnt := t.el.pcnt } ∧
      t.out = ⟨false, none⟩ ∧ t.cfg = s.cfg ∧ t.trace = s.trace

/-- R163 and R162: the ageing of R120 and the seven steps of R131 to R138, and no other state element. -/
def Obligations.TickAgesAndRunsControlLaw : Prop :=
  ∀ s : State, s.Inv →
    let c := s.cfg
    let x := s.el
    let spS := fdiv (x.sp.toInt * c.spNum) c.spDen
    let e := spS - x.raw.toNat
    let acc1 := x.integ.toInt + e * c.kiCoef
    let acc2 := clamp acc1 c.iLo c.iHi
    let d := e - x.perr.toInt
    let raw := c.kpCoef * e + acc2 + c.kdCoef * d + c.ffCoef * x.raw.toNat + c.ffBias
    let out := fdiv (raw * c.outNum) (c.q * c.outDen)
    let cnt := x.scnt.toNat + 1
    decode s.cfg 0x90000000#32 = .ok .tick ∧
    ∃ t, exec .tick s = .next t ∧
      (t.el.duty.toNat : Int) = clamp out 0 (x.period.toNat - 1) ∧
      t.el.perr.toInt = e ∧
      t.el.integ.toInt = (if cnt = c.resetCycles then 0 else acc2) ∧
      t.el.scnt.toNat = (if cnt = c.resetCycles then 0 else cnt) ∧
      t.el.debi.toNat = min (x.debi.toNat + 1) c.debMax ∧
      t.el.debd.toNat = min (x.debd.toNat + 1) c.debMax ∧
      t.el = { x with
        duty := t.el.duty, perr := t.el.perr, integ := t.el.integ, scnt := t.el.scnt, debi := t.el.debi,
        debd := t.el.debd } ∧
      t.out = ⟨false, none⟩ ∧ t.cfg = s.cfg ∧ t.trace = s.trace

/-- R172: the highest-priority set flag is cleared and its handler runs within the one operation; the handlers H_TICK,
H_INC and H_DEC are those of `TICK`, `INC` and `DEC` (R163, R125, R126), and H_CONV is R112. -/
def Obligations.SvcServesHighestPriorityEvent : Prop :=
  ∀ s : State, s.Inv →
    decode s.cfg 0xB0000000#32 = .ok .svc ∧
    ∃ t, exec .svc s = .next t ∧ t.cfg = s.cfg ∧ t.trace = s.trace ∧
      (if s.el.ifr.getLsbD 0 then
        exec .tick { s with el := { s.el with ifr := s.el.ifr &&& 0b1110#4 } } = .next t
      else if s.el.ifr.getLsbD 1 then
        t.el = { s.el with ifr := s.el.ifr &&& 0b1101#4, raw := s.el.adcd, adcRun := true } ∧ t.out = ⟨true, none⟩
      else if s.el.ifr.getLsbD 2 then
        exec .inc { s with el := { s.el with ifr := s.el.ifr &&& 0b1011#4 } } = .next t
      else if s.el.ifr.getLsbD 3 then
        exec .dec { s with el := { s.el with ifr := s.el.ifr &&& 0b0111#4 } } = .next t
      else t.el = s.el ∧ t.out = ⟨false, none⟩)

/-- R156 with U1: `PWM_OUT` has the value of R153 where `DUTY` is below `PERIOD`; where it is not, it has no value, and
`PCLK` and a read of `STATUS` are refused (which operations U1's `refuse` reaches: log entry 5). -/
def Obligations.ActuatorIsStatedOnlyBelowPeriod : Prop :=
  ∀ (s : State) (n : Imm), s.cfg.WellFormed →
    if s.el.duty < s.el.period then s.pwmOut = some (decide (s.el.pcnt < s.el.duty))
    else s.pwmOut = none ∧ exec (.pclk n) s = .refused .dutyNotBelowPeriod ∧
      exec (.rd .status) s = .refused .dutyNotBelowPeriod

/-- R173 with the register map of R61, the fields of `STATUS` of R62 and the reserved indexes of R64 (some word). `STATUS`
is read where `PWM_OUT` has a value (R156); elsewhere the read is refused (`ActuatorIsStatedOnlyBelowPeriod`). -/
def Obligations.RdReadsRegisterSpace : Prop :=
  ∀ (s : State) (reg : Reg), s.cfg.WellFormed → (reg = .status → s.el.duty < s.el.period) →
    decode s.cfg (0xC#4 ++ reg.toBits ++ 0x000000#24) = .ok (.rd reg) ∧
    ∃ t v, exec (.rd reg) s = .next t ∧ t.el = s.el ∧ t.out = ⟨false, some v⟩ ∧ t.cfg = s.cfg ∧ t.trace = s.trace ∧
      (reg = .raw → v.toNat = s.el.raw.toNat) ∧
      (reg = .sp → v.toInt = s.el.sp.toInt) ∧
      (reg = .duty → v.toNat = s.el.duty.toNat) ∧
      (reg = .period → v.toNat = s.el.period.toNat) ∧
      (reg = .integ → v = s.el.integ) ∧
      (reg = .perr → v = s.el.perr) ∧
      (reg = .scnt → v.toNat = s.el.scnt.toNat) ∧
      (reg = .debi → v.toNat = s.el.debi.toNat) ∧
      (reg = .debd → v.toNat = s.el.debd.toNat) ∧
      (reg = .status → v.toNat = s.el.ifr.toNat + 16 * s.el.adcRun.toNat + 32 * (decide (s.el.pcnt < s.el.duty)).toNat) ∧
      (reg = .adcd → v.toNat = s.el.adcd.toNat) ∧
      (reg = .tcnt → v.toNat = s.el.tcnt.toNat) ∧
      (reg = .pcnt → v.toNat = s.el.pcnt.toNat)

/-! ### Arithmetic -/

/-- R14: `fdiv(a, b)` is the greatest integer `q` with `q × b ≤ a`, for `b > 0`. -/
def Obligations.FdivIsFloor : Prop :=
  ∀ a b : Int, 0 < b → fdiv a b * b ≤ a ∧ ∀ q : Int, q * b ≤ a → q ≤ fdiv a b

/-- The spec's own inference (the sentence of rule 15 marked derived): in the clamp of R136 the rounding direction of the
division cannot be seen. -/
def Obligations.RoundingDirectionIsInvisible : Prop :=
  ∀ a b hi : Int, 0 < b → 0 ≤ hi → clamp (fdiv a b) 0 hi = clamp (Int.tdiv a b) 0 hi

/-- The ranges of R131, R132, R134 and R135 under the bounds of R11. The product with `SP_NUM`, the error, the accumulation
and the scaled output sum fit a signed 32-bit register by them; of the derivative the spec gives the bound `D_ABS` alone
(R134), which fits such a register only where another rule bounds it. -/
def Obligations.PidIntermediatesStayInTheirRanges : Prop :=
  ∀ s : State, s.Inv →
    (0 ≤ s.el.sp.toInt * s.cfg.spNum ∧ s.el.sp.toInt * s.cfg.spNum ≤ 2 ^ 31 - 1) ∧
    (-(2 ^ s.cfg.adcBits - 1) ≤ pidE s ∧ pidE s ≤ s.cfg.eHi) ∧
    (-(2 ^ 31 - 1) ≤ pidAcc1 s ∧ pidAcc1 s ≤ 2 ^ 31 - 1) ∧
    (-s.cfg.dAbs ≤ pidD s ∧ pidD s ≤ s.cfg.dAbs) ∧
    (-(2 ^ 31 - 1) ≤ pidRaw s * s.cfg.outNum ∧ pidRaw s * s.cfg.outNum ≤ 2 ^ 31 - 1)

/-! ### Invariants and progress -/

/-- The spec's own inference (the sentence of rule 39 marked derived): every step keeps INV, whatever word comes. -/
def Obligations.InvariantKeptByEveryStep : Prop :=
  ∀ s t : State, s.Inv → step s = .next t → t.Inv

/-- R18: in a state that satisfies INV every operation that can happen has a next state. That this state satisfies INV is
the spec's own inference (the sentence of rule 39 marked derived). -/
def Obligations.EveryOperationCompletes : Prop :=
  ∀ (s : State) (i : Instr), s.Inv → i.wf s.cfg = true → ∃ t, exec i s = .next t ∧ t.Inv

/-- R35: no step writes `CFG`. -/
def Obligations.ConfigurationNeverChanges : Prop :=
  ∀ s t : State, step s = .next t → t.cfg = s.cfg

/-- The spec's own inference (the sentence of rule 128 marked derived): `SP` stays a multiple of `SP_STEP`. -/
def Obligations.SetpointStaysMultipleOfStep : Prop :=
  ∀ s t : State, s.Inv → (s.cfg.spStep : Int) ∣ s.el.sp.toInt → step s = .next t →
    (t.cfg.spStep : Int) ∣ t.el.sp.toInt

/-- R36, the column of writers: which operations may change each state element. `handlerRun` is the handler the operation
runs (R182, R186); `RST` writes all. -/
def Obligations.OnlyTheListedWritersChangeAnElement : Prop :=
  ∀ (i : Instr) (s t : State), exec i s = .next t → i ≠ .rst →
    (t.el.raw ≠ s.el.raw → handlerRun i s = some .conv) ∧
    (t.el.adcd ≠ s.el.adcd → ∃ d, i = .adcdone d ∨ i = .conv d) ∧
    (t.el.adcRun ≠ s.el.adcRun → (∃ d, i = .adcdone d) ∨ handlerRun i s = some .conv) ∧
    (t.el.sp ≠ s.el.sp → handlerRun i s = some .inc ∨ handlerRun i s = some .dec) ∧
    (t.el.perr ≠ s.el.perr → handlerRun i s = some .tick) ∧
    (t.el.integ ≠ s.el.integ → handlerRun i s = some .tick) ∧
    (t.el.scnt ≠ s.el.scnt → handlerRun i s = some .tick) ∧
    (t.el.debi ≠ s.el.debi → handlerRun i s = some .tick ∨ handlerRun i s = some .inc) ∧
    (t.el.debd ≠ s.el.debd → handlerRun i s = some .tick ∨ handlerRun i s = some .dec) ∧
    (t.el.duty ≠ s.el.duty → handlerRun i s = some .tick) ∧
    t.el.period = s.el.period ∧
    (t.el.pcnt ≠ s.el.pcnt → ∃ n, i = .pclk n) ∧
    (t.el.tcnt ≠ s.el.tcnt → ∃ n, i = .tclk n) ∧
    (t.el.ifr ≠ s.el.ifr → i = .svc ∨ i = .incedge ∨ i = .decedge ∨ (∃ d, i = .adcdone d) ∨ ∃ n, i = .tclk n)

/-! ### The controller -/

/-- R130: the invocation is a function of `SP`, `RAW`, `PERR`, `INTEG`, `SCNT`, `PERIOD` and `CFG`, whatever the rest of
the state, the timer, the latch and the flags among it. -/
def Obligations.PidDependsOnItsSixInputsOnly : Prop :=
  ∀ s s' t t' : State, s.Inv → s'.Inv → s.cfg = s'.cfg → s.el.sp = s'.el.sp → s.el.raw = s'.el.raw →
    s.el.perr = s'.el.perr → s.el.integ = s'.el.integ → s.el.scnt = s'.el.scnt → s.el.period = s'.el.period →
    exec .tick s = .next t → exec .tick s' = .next t' →
      t.el.duty = t'.el.duty ∧ t.el.perr = t'.el.perr ∧ t.el.integ = t'.el.integ ∧ t.el.scnt = t'.el.scnt

/-- The spec's own inference (the sentence of rule 140 marked derived): the clamp keeps `DUTY` in `0 .. PERIOD − 1` for
every value of the inputs, in any state with `PERIOD ≥ 1`. -/
def Obligations.DutyIsClampedForEveryInput : Prop :=
  ∀ s : State, s.cfg.WellFormed → 1 ≤ s.el.period.toNat →
    ∃ t, exec .tick s = .next t ∧ t.el.duty.toNat ≤ s.el.period.toNat - 1

/-- The spec's own inference (the sentence of rule 142 marked derived): along any run from the reset values without
another reset, `SCNT` is the number of H_TICK so far, modulo `RESET_CYCLES`. -/
def Obligations.SampleCounterCountsInvocations : Prop :=
  ∀ (l : List Instr) (s t : State), s.cfg.WellFormed → s.el = Elements.reset s.cfg → .rst ∉ l →
    execAll l s = .next t → t.el.scnt.toNat = sumAlong tickRuns l s % s.cfg.resetCycles

/-- The spec's own inference (the sentence of rule 145 marked derived): with the reading equal to the scaled setpoint,
the previous error 0 and no feed-forward, the output is the integral term alone, the error is 0 again and the integral
stays, but for the reset boundary (R138). -/
def Obligations.SteadyStateOutputIsIntegralTerm : Prop :=
  ∀ s : State, s.Inv → (s.el.raw.toNat : Int) = pidSpS s → s.el.perr.toInt = 0 → s.cfg.ffCoef = 0 → s.cfg.ffBias = 0 →
    ∃ t, exec .tick s = .next t ∧
      (t.el.duty.toNat : Int) =
        clamp (fdiv (s.el.integ.toInt * s.cfg.outNum) (s.cfg.q * s.cfg.outDen)) 0 (s.el.period.toNat - 1) ∧
      t.el.perr.toInt = 0 ∧ t.el.sp = s.el.sp ∧ t.el.raw = s.el.raw ∧
      t.el.integ.toInt = if s.el.scnt.toNat + 1 = s.cfg.resetCycles then 0 else s.el.integ.toInt

/-- The spec's own inference (the last sentence of rule 204, marked derived), for gains as in P0: while the setpoint is 0
the integral is not positive and the converter is off. -/
def Obligations.ConverterIsOffWhileSetpointIsZero : Prop :=
  ∀ (i : Instr) (s t : State), s.Inv → 0 ≤ s.cfg.kpCoef → 0 ≤ s.cfg.kiCoef → s.cfg.kdCoef = 0 → s.cfg.ffCoef = 0 →
    s.cfg.ffBias = 0 → s.el.sp.toInt = 0 → s.el.integ.toInt ≤ 0 → s.el.duty.toNat = 0 →
    exec i s = .next t → t.el.sp.toInt = 0 → t.el.integ.toInt ≤ 0 ∧ t.el.duty.toNat = 0

/-! ### Counters and the PWM output -/

/-- R86: `TCLK n` is `TCLK 1` applied n times in succession, and `PCLK n` likewise. -/
def Obligations.RepetitionCountIsRepetition : Prop :=
  ∀ (s : State) (n : Imm), s.Inv →
    (∃ t u, exec (.tclk n) s = .next t ∧ execAll (List.replicate n.toNat (.tclk 1#16)) s = .next u ∧ u.el = t.el) ∧
    (∃ t u, exec (.pclk n) s = .next t ∧ execAll (List.replicate n.toNat (.pclk 1#16)) s = .next u ∧ u.el = t.el)

/-- The spec's own inference (the sentence of rule 154 marked derived): over one whole period, from any count, `PWM_OUT`
is 1 during exactly `DUTY` of the `PERIOD` counts, and 0 during the others. -/
def Obligations.PwmConductsDutyCountsPerPeriod : Prop :=
  ∀ s : State, s.Inv →
    ((List.range s.el.period.toNat).filter (fun k => pwmOutAfter k s = some true)).length = s.el.duty.toNat ∧
    ∀ k < s.el.period.toNat, pwmOutAfter k s ≠ some true → pwmOutAfter k s = some false

/-! ### Events -/

/-- R189 (an inference the spec marks as its own): from a state with no flag of higher priority pending and the event's
own flag 0, each event followed by `SVC` has the effect of the handler invoked directly. -/
def Obligations.EventThenServiceIsDirectHandler : Prop :=
  ∀ s : State, s.Inv →
    (∀ d : Imm, d.toNat < 2 ^ s.cfg.adcBits → s.el.ifr &&& 0b0011#4 = 0#4 →
      ∃ t u, execAll [.adcdone d, .svc] s = .next t ∧ exec (.conv d) s = .next u ∧ t.el = u.el ∧ t.out = u.out) ∧
    (s.el.ifr &&& 0b0111#4 = 0#4 →
      ∃ t u, execAll [.incedge, .svc] s = .next t ∧ exec .inc s = .next u ∧ t.el = u.el) ∧
    (s.el.ifr = 0#4 →
      ∃ t u, execAll [.decedge, .svc] s = .next t ∧ exec .dec s = .next u ∧ t.el = u.el) ∧
    (∀ n : Imm, 2 ^ s.cfg.tmrBits ≤ s.el.tcnt.toNat + n.toNat →
      s.el.tcnt.toNat + n.toNat < 2 * 2 ^ s.cfg.tmrBits → s.el.ifr &&& 0b0001#4 = 0#4 →
      ∃ t u, execAll [.tclk n, .svc] s = .next t ∧ exec .tick s = .next u ∧ t.el = { u.el with tcnt := t.el.tcnt })

/-- R183, for its four sources: an event whose flag is already 1 leaves it 1 and is not counted; a second conversion
replaces the first sample (R111), and a timer that counts with `TICKF` set, over however many overflows, changes `TCNT`
alone. -/
def Obligations.RepeatedEventsCoalesce : Prop :=
  ∀ (s : State) (d1 d2 : Imm), s.cfg.WellFormed → d1.toNat < 2 ^ s.cfg.adcBits → d2.toNat < 2 ^ s.cfg.adcBits →
    (∃ t u, execAll [.incedge, .incedge] s = .next t ∧ exec .incedge s = .next u ∧ t.el = u.el) ∧
    (∃ t u, execAll [.decedge, .decedge] s = .next t ∧ exec .decedge s = .next u ∧ t.el = u.el) ∧
    (∃ t u, execAll [.adcdone d1, .adcdone d2] s = .next t ∧ exec (.adcdone d2) s = .next u ∧ t.el = u.el) ∧
    (∀ n : Imm, s.el.ifr.getLsbD 0 = true →
      ∃ t, exec (.tclk n) s = .next t ∧ t.el = { s.el with tcnt := t.el.tcnt })

/-- R114, its second law (an inference the spec marks as its own): of two samples that arrive before the service, the
second is stored and the first leaves no trace. -/
def Obligations.SecondSampleReplacesFirst : Prop :=
  ∀ (s : State) (d1 d2 : Imm), s.cfg.WellFormed → d1.toNat < 2 ^ s.cfg.adcBits → d2.toNat < 2 ^ s.cfg.adcBits →
    s.el.ifr &&& 0b0001#4 = 0#4 →
    ∃ t u, execAll [.adcdone d1, .adcdone d2, .svc] s = .next t ∧ execAll [.adcdone d2, .svc] s = .next u ∧
      t.el = u.el ∧ t.out = u.out ∧ t.el.raw = d2

/-- R94: `DRAIN` serves everything pending, at most four flags. -/
def Obligations.DrainServesEverythingPending : Prop :=
  ∀ s : State, s.Inv → ∃ t, execAll (Pseudo.drain.expand s.cfg) s = .next t ∧ t.el.ifr = 0#4

/-- R94: `PERIODT` wraps the timer exactly once, whatever `TCNT` was, and then the tick is served, also with
`TMR_BITS = 16`. That the elements are then those of `TICK`, `TICKF` served with it where it was set before, is the inference
of R189 (the spec marks it as its own) with R183. -/
def Obligations.PeriodtWrapsOnceAndServesTick : Prop :=
  ∀ s : State, s.Inv →
    sumAlong timerWraps (Pseudo.periodt.expand s.cfg) s = 1 ∧ sumAlong tickRuns (Pseudo.periodt.expand s.cfg) s = 1 ∧
    ∃ t u, execAll (Pseudo.periodt.expand s.cfg) s = .next t ∧ exec .tick s = .next u ∧
      t.el = { u.el with ifr := s.el.ifr &&& 0b1110#4 }

/-- The spec's own inference (the sentence of rule 81 marked derived): the order of the pulses of one instant does not
matter for the state elements. -/
def Obligations.PulsesOfOneInstantCommute : Prop :=
  ∀ (s : State) (i j : Instr), s.Inv → isPulse i = true → isPulse j = true → i.opcode ≠ j.opcode →
    i.wf s.cfg = true → j.wf s.cfg = true →
    ∃ t u, execAll [i, j] s = .next t ∧ execAll [j, i] s = .next u ∧ t.el = u.el

/-- R81: an event in the instant in which the dispatcher serves leaves its flag set, whatever was served (set wins over
clear), the overflow of the timer (R161) among them; reset in the same instant is applied last. The order of the pulses
that R81 leaves free is the model's (log entry 10). -/
def Obligations.EventInTheInstantOfServiceIsNotLost : Prop :=
  ∀ (p : Inputs) (serve : Bool) (s t : State), execAll (p.operations serve) s = .next t →
    (p.rst = true → t.el = Elements.reset s.cfg) ∧
    (p.rst = false → p.tmrClk = true → s.el.tcnt.toNat = 2 ^ s.cfg.tmrBits - 1 → t.el.ifr.getLsbD 0 = true) ∧
    (p.rst = false → p.adcDone = true → t.el.ifr.getLsbD 1 = true) ∧
    (p.rst = false → p.incEdge = true → t.el.ifr.getLsbD 2 = true) ∧
    (p.rst = false → p.decEdge = true → t.el.ifr.getLsbD 3 = true)

/-- The spec's own inference (the sentence of rule 205 marked derived): on the event layer from reset, under EA1, no
conversion ever completes while an earlier sample waits. -/
def Obligations.NoSampleIsOverwrittenUnderEa1 : Prop :=
  ∀ (l : List Instr) (s : State), s.cfg.WellFormed → s.el = Elements.reset s.cfg →
    (∀ i ∈ l, isEventLayer i = true) → holdsAlong ea1Holds l s = true →
    holdsAlong (fun i x => decide (i.opcode = .adcdone → pending x.el.ifr .conv = false)) l s = true

/-- R206 and R166: on the event layer without reset, under EA2, no control period is lost: every wrap of the timer is an
H_TICK that has run or the one that is pending. -/
def Obligations.NoControlPeriodIsLostUnderEa2 : Prop :=
  ∀ (l : List Instr) (s t : State), s.Inv → (∀ i ∈ l, isEventLayer i = true ∧ i ≠ .rst) →
    holdsAlong ea2Holds l s = true → execAll l s = .next t →
    sumAlong tickRuns l s + (pending t.el.ifr .tick).toNat =
      sumAlong timerWraps l s + (pending s.el.ifr .tick).toNat

/-! ### Debounce and the host -/

/-- R127 (b) (an inference the spec marks as its own): in any stretch of a run with k H_TICK a button is accepted at most
`fdiv(k, DEB_THRESH) + 1` times, from every state. -/
def Obligations.AcceptancesAreBoundedByTicks : Prop :=
  ∀ (l : List Instr) (s : State), 1 ≤ s.cfg.debThresh →
    sumAlong incAcceptances l s ≤ sumAlong tickRuns l s / s.cfg.debThresh + 1 ∧
    sumAlong decAcceptances l s ≤ sumAlong tickRuns l s / s.cfg.debThresh + 1

/-- R127 (d) (an inference the spec marks as its own): from the reset values no adjustment is accepted before the
`DEB_THRESH`-th H_TICK. -/
def Obligations.NoAdjustmentBeforeThresholdTicks : Prop :=
  ∀ (l : List Instr) (s t : State), s.el = Elements.reset s.cfg → sumAlong tickRuns l s < s.cfg.debThresh →
    execAll l s = .next t → t.el.sp = 0#16

/-- R175 (an inference the spec marks as its own): a run with the reads and idle steps taken out ends with the same state
elements; every prefix of a run is a run, so this is so after every other operation. -/
def Obligations.HostReadsDoNotAffectTheRun : Prop :=
  ∀ (l : List Instr) (s s' : State), s.Inv → s'.cfg = s.cfg → s'.el = s.el → (∀ i ∈ l, i.wf s.cfg = true) →
    ∃ t t', execAll l s = .next t ∧ execAll (l.filter (fun i => !isHostOrIdle i)) s' = .next t' ∧ t.el = t'.el
end

