-- ==== Sys2Proof/Laws/Arith.lean ====
section
/-! SUPPORT. The facts about `fdiv` and `clamp` (R14, R15) that the rest of the laws use. -/

namespace Sys2Proof

theorem fdiv_eq_ediv (a : Int) {b : Int} (hb : 0 < b) : fdiv a b = a / b :=
  Int.fdiv_eq_ediv_of_nonneg a (Int.le_of_lt hb)

theorem fdiv_nonneg {a b : Int} (ha : 0 ≤ a) (hb : 0 < b) : 0 ≤ fdiv a b := by
  rw [fdiv_eq_ediv a hb]; exact Int.ediv_nonneg ha (Int.le_of_lt hb)

theorem fdiv_mono {a a' b : Int} (h : a ≤ a') (hb : 0 < b) : fdiv a b ≤ fdiv a' b := by
  rw [fdiv_eq_ediv a hb, fdiv_eq_ediv a' hb]; exact Int.ediv_le_ediv hb h

theorem fdiv_le_self {a b : Int} (ha : 0 ≤ a) (hb : 0 < b) : fdiv a b ≤ a := by
  rw [fdiv_eq_ediv a hb]; exact Int.ediv_le_self b ha

theorem fdiv_nonpos {a b : Int} (ha : a ≤ 0) (hb : 0 < b) : fdiv a b ≤ 0 := by
  have h := fdiv_mono ha hb
  rwa [fdiv_eq_ediv 0 hb, Int.zero_ediv] at h

/-- A clamped value lies between its bounds (R14). -/
theorem clamp_mem (v : Int) {lo hi : Int} (h : lo ≤ hi) : lo ≤ clamp v lo hi ∧ clamp v lo hi ≤ hi := by
  unfold clamp; split
  · exact ⟨le_refl _, h⟩
  · split <;> omega

/-- A value between the bounds is not changed by the clamp (R14). -/
theorem clamp_of_mem {v lo hi : Int} (hl : lo ≤ v) (hh : v ≤ hi) : clamp v lo hi = v := by
  unfold clamp
  rw [if_neg (by omega), if_neg (by omega)]

/-- The clamp as the smaller and the larger of R14. -/
theorem clamp_eq_max_min (v : Int) {lo hi : Int} (h : lo ≤ hi) : clamp v lo hi = max lo (min v hi) := by
  unfold clamp
  split
  · omega
  · split <;> omega

theorem clamp_of_nonpos {v hi : Int} (hv : v ≤ 0) (hh : 0 ≤ hi) : clamp v 0 hi = 0 := by
  unfold clamp
  split
  · rfl
  · split <;> omega

end Sys2Proof
end

