-- ==== Sys2Proof/Laws/Config.lean ====
section
/-! SUPPORT. What a well-formed `CFG` gives (R10, R11), one lemma per fact that the meanings rely on. -/

namespace Sys2Proof.Cfg

variable {c : Cfg}

theorem adcBits_ge (h : c.WellFormed) : 8 ≤ c.adcBits := h.1.1.1
theorem adcBits_le (h : c.WellFormed) : c.adcBits ≤ 16 := h.1.1.2
theorem tmrBits_ge (h : c.WellFormed) : 1 ≤ c.tmrBits := h.1.2.1.1
theorem tmrBits_le (h : c.WellFormed) : c.tmrBits ≤ 16 := h.1.2.1.2
theorem q_pos (h : c.WellFormed) : 1 ≤ c.q := h.1.2.2.1
theorem spDen_pos (h : c.WellFormed) : 1 ≤ c.spDen := h.1.2.2.2.1.2
theorem outNum_pos (h : c.WellFormed) : 1 ≤ c.outNum := h.1.2.2.2.2.1.1
theorem outDen_pos (h : c.WellFormed) : 1 ≤ c.outDen := h.1.2.2.2.2.1.2
theorem iLo_nonpos (h : c.WellFormed) : c.iLo ≤ 0 := h.1.2.2.2.2.2.1.1
theorem iHi_nonneg (h : c.WellFormed) : 0 ≤ c.iHi := h.1.2.2.2.2.2.1.2
theorem pwmPeriod_ge (h : c.WellFormed) : 1 ≤ c.pwmPeriod := h.1.2.2.2.2.2.2.1.1
theorem pwmPeriod_le (h : c.WellFormed) : c.pwmPeriod ≤ 65535 := h.1.2.2.2.2.2.2.1.2
theorem spMax_le (h : c.WellFormed) : c.spMax ≤ 32767 := h.1.2.2.2.2.2.2.2.1
theorem spStep_ge (h : c.WellFormed) : 1 ≤ c.spStep := h.1.2.2.2.2.2.2.2.2.1.1
theorem spStep_le (h : c.WellFormed) : c.spStep ≤ 32767 := h.1.2.2.2.2.2.2.2.2.1.2
theorem debBits_le (h : c.WellFormed) : c.debBits ≤ 16 := h.1.2.2.2.2.2.2.2.2.2.1.2
theorem debThresh_le (h : c.WellFormed) : c.debThresh ≤ c.debMax := h.1.2.2.2.2.2.2.2.2.2.2.1.1
theorem debMax_le_width (h : c.WellFormed) : c.debMax ≤ 2 ^ c.debBits - 1 := h.1.2.2.2.2.2.2.2.2.2.2.1.2
theorem resetCycles_ge (h : c.WellFormed) : 1 ≤ c.resetCycles := h.1.2.2.2.2.2.2.2.2.2.2.2.1.1
theorem resetCycles_le (h : c.WellFormed) : c.resetCycles ≤ 65535 := h.1.2.2.2.2.2.2.2.2.2.2.2.1.2
theorem boundV0 (h : c.WellFormed) : (c.spMax : Int) * c.spNum ≤ 2 ^ 31 - 1 := h.2.1
theorem boundV1 (h : c.WellFormed) : c.iAbs + c.kiCoef.natAbs * c.eAbs ≤ 2 ^ 31 - 1 := h.2.2.1
theorem boundV2 (h : c.WellFormed) :
    (c.kpCoef.natAbs * c.eAbs + c.iAbs + c.kdCoef.natAbs * c.dAbs + c.ffCoef.natAbs * c.rawMax +
      c.ffBias.natAbs) * c.outNum ≤ 2 ^ 31 - 1 := h.2.2.2

theorem debMax_le (h : c.WellFormed) : c.debMax ≤ 65535 := by
  have h1 := debMax_le_width h
  have h2 : 2 ^ c.debBits ≤ 2 ^ 16 := Nat.pow_le_pow_right (by decide) (debBits_le h)
  omega

theorem two_pow_adcBits_le (h : c.WellFormed) : 2 ^ c.adcBits ≤ 65536 :=
  Nat.pow_le_pow_right (n := 2) (by decide) (adcBits_le h)

theorem two_pow_tmrBits_le (h : c.WellFormed) : 2 ^ c.tmrBits ≤ 65536 :=
  Nat.pow_le_pow_right (n := 2) (by decide) (tmrBits_le h)

theorem two_pow_tmrBits_pos (c : Cfg) : 0 < 2 ^ c.tmrBits := Nat.two_pow_pos _

theorem rawMax_nonneg (c : Cfg) : 0 ≤ c.rawMax := by
  have : (1 : Int) ≤ 2 ^ c.adcBits := one_le_pow₀ (by norm_num)
  unfold rawMax; omega

theorem rawMax_le (h : c.WellFormed) : c.rawMax ≤ 65535 := by
  have h1 : ((2 ^ c.adcBits : Nat) : Int) ≤ 65536 := by exact_mod_cast two_pow_adcBits_le h
  have h2 : ((2 ^ c.adcBits : Nat) : Int) = 2 ^ c.adcBits := by push_cast; rfl
  unfold rawMax; omega

theorem eHi_nonneg (h : c.WellFormed) : 0 ≤ c.eHi :=
  fdiv_nonneg (by positivity) (by have := spDen_pos h; omega)

theorem eHi_le (h : c.WellFormed) : c.eHi ≤ 2 ^ 31 - 1 :=
  le_trans (fdiv_le_self (by positivity) (by have := spDen_pos h; omega)) (boundV0 h)

theorem eLo_nonpos (c : Cfg) : c.eLo ≤ 0 := by have := rawMax_nonneg c; unfold eLo; omega

theorem eLo_ge (h : c.WellFormed) : -65535 ≤ c.eLo := by have := rawMax_le h; unfold eLo; omega

theorem eAbs_nonneg (c : Cfg) : 0 ≤ c.eAbs := le_trans (rawMax_nonneg c) (le_max_right _ _)

theorem iAbs_le (h : c.WellFormed) : c.iAbs ≤ 2 ^ 31 - 1 := by
  have h1 := boundV1 h
  have h2 : 0 ≤ (c.kiCoef.natAbs : Int) * c.eAbs := mul_nonneg (by positivity) (eAbs_nonneg c)
  omega

theorem iLo_ge (h : c.WellFormed) : -(2 ^ 31 - 1) ≤ c.iLo := by
  have h1 := iAbs_le h
  have h2 : -c.iLo ≤ c.iAbs := le_max_left _ _
  omega

theorem iHi_le (h : c.WellFormed) : c.iHi ≤ 2 ^ 31 - 1 :=
  le_trans (le_max_right _ _) (iAbs_le h)

end Sys2Proof.Cfg
end

