-- ==== Sys2Proof/Laws/Decode.lean ====
section
/-! SUPPORT. The fields of an encoded word, and the tables of codes and names read back and forth (R82 to R88). -/

namespace Sys2Proof

theorem append4_toNat (a b : BitVec 4) (z : BitVec 8) (m : BitVec 16) :
    (a ++ b ++ z ++ m : BitVec 32).toNat =
      a.toNat * 2 ^ 28 + b.toNat * 2 ^ 24 + z.toNat * 2 ^ 16 + m.toNat := by
  have hb := b.isLt
  have hz := z.isLt
  have hm := m.isLt
  simp only [BitVec.toNat_append]
  rw [← Nat.shiftLeft_add_eq_or_of_lt hm, ← Nat.shiftLeft_add_eq_or_of_lt hz, ← Nat.shiftLeft_add_eq_or_of_lt hb]
  simp only [Nat.shiftLeft_eq]
  omega

theorem opcField_append (a b : BitVec 4) (z : BitVec 8) (m : BitVec 16) : opcField (a ++ b ++ z ++ m) = a := by
  apply BitVec.eq_of_toNat_eq
  have := a.isLt; have := b.isLt; have := z.isLt; have := m.isLt
  rw [opcField, BitVec.extractLsb'_toNat, append4_toNat, Nat.shiftRight_eq_div_pow]
  omega

theorem regField_append (a b : BitVec 4) (z : BitVec 8) (m : BitVec 16) : regField (a ++ b ++ z ++ m) = b := by
  apply BitVec.eq_of_toNat_eq
  have := a.isLt; have := b.isLt; have := z.isLt; have := m.isLt
  rw [regField, BitVec.extractLsb'_toNat, append4_toNat, Nat.shiftRight_eq_div_pow]
  omega

theorem zeroField_append (a b : BitVec 4) (z : BitVec 8) (m : BitVec 16) : zeroField (a ++ b ++ z ++ m) = z := by
  apply BitVec.eq_of_toNat_eq
  have := a.isLt; have := b.isLt; have := z.isLt; have := m.isLt
  rw [zeroField, BitVec.extractLsb'_toNat, append4_toNat, Nat.shiftRight_eq_div_pow]
  omega

theorem immField_append (a b : BitVec 4) (z : BitVec 8) (m : BitVec 16) : immField (a ++ b ++ z ++ m) = m := by
  apply BitVec.eq_of_toNat_eq
  have := a.isLt; have := b.isLt; have := z.isLt; have := m.isLt
  rw [immField, BitVec.extractLsb'_toNat, append4_toNat, Nat.shiftRight_eq_div_pow]
  omega

/-- A word is its four fields (R82). -/
theorem word_eq_fields (w : Word) : opcField w ++ regField w ++ zeroField w ++ immField w = w := by
  apply BitVec.eq_of_toNat_eq
  have := w.isLt
  rw [append4_toNat]
  simp only [opcField, regField, zeroField, immField, BitVec.extractLsb'_toNat, Nat.shiftRight_eq_div_pow]
  omega

@[simp] theorem opcode_ofBits_toBits (o : Opcode) : Opcode.ofBits o.toBits = some o := by cases o <;> rfl

theorem opcode_toBits_of_ofBits {b : BitVec 4} {o : Opcode} (h : Opcode.ofBits b = some o) : o.toBits = b := by
  revert b; cases o <;> decide

@[simp] theorem reg_ofBits_toBits (r : Reg) : Reg.ofBits r.toBits = r := by cases r <;> rfl

@[simp] theorem reg_toBits_ofBits (b : BitVec 4) : (Reg.ofBits b).toBits = b := by revert b; decide

/-- `OPC` values 0xD, 0xE and 0xF are reserved (R89), and no others. -/
theorem opcode_ofBits_none_iff (b : BitVec 4) : Opcode.ofBits b = none ↔ 13 ≤ b.toNat := by revert b; decide

@[simp] theorem opcode_of_operation (o : Opcode) (imm : Imm) (reg : Reg) : (o.operation imm reg).opcode = o := by
  cases o <;> rfl

/-- An operation is its code with its operand fields (R84). -/
theorem operation_of_fields (i : Instr) : i.opcode.operation i.immBits (Reg.ofBits i.regBits) = i := by
  cases i <;> simp [Instr.opcode, Instr.immBits, Instr.regBits, Opcode.operation]

theorem encode_fields (i : Instr) :
    opcField (encode i) = i.opcode.toBits ∧ regField (encode i) = i.regBits ∧ zeroField (encode i) = 0#8 ∧
      immField (encode i) = i.immBits :=
  ⟨opcField_append _ _ _ _, regField_append _ _ _ _, zeroField_append _ _ _ _, immField_append _ _ _ _⟩

/-- The low 28 bits are 0 when the three fields below `OPC` are (R83). -/
theorem low28_eq_zero_iff (w : Word) :
    w.extractLsb' 0 28 = 0#28 ↔ regField w = 0#4 ∧ zeroField w = 0#8 ∧ immField w = 0#16 := by
  simp only [← BitVec.toNat_inj, regField, zeroField, immField, BitVec.extractLsb'_toNat,
    Nat.shiftRight_eq_div_pow, BitVec.toNat_ofNat]
  omega

/-- All that `decode` can answer with an operation (R88 case 7): the word is legal in its format, and the operation is
the one of its fields. -/
theorem decode_eq_ok {c : Cfg} {w : Word} {i : Instr} :
    decode c w = .ok i ↔
      zeroField w = 0#8 ∧ ∃ o, Opcode.ofBits (opcField w) = some o ∧ formatFault o.format w = none ∧
        i = o.operation (immField w) (Reg.ofBits (regField w)) ∧ i.wf c = true := by
  unfold decode
  constructor
  · intro h
    split at h
    · exact nomatch h
    · rename_i hz
      split at h
      · exact nomatch h
      · rename_i o ho
        split at h
        · exact nomatch h
        · rename_i hf
          split at h
          · rename_i hw
            have hi := Except.ok.inj h
            exact ⟨not_not.mp hz, o, ho, hf, hi.symm, hi ▸ hw⟩
          · exact nomatch h
  · rintro ⟨hz, o, ho, hf, rfl, hw⟩
    simp only [hz, ho, hf, hw]
    rfl

end Sys2Proof
end

