-- ==== Sys2Proof/Laws/State.lean ====
section
/-! SUPPORT. What each update of State leaves in each field: one lemma per field per update, true by rfl. -/

namespace Sys2Proof.Machine

@[simp] theorem startOp_cfg (s : State) : s.startOp.cfg = s.cfg := rfl
@[simp] theorem startOp_el (s : State) : s.startOp.el = s.el := rfl
@[simp] theorem startOp_out (s : State) : s.startOp.out = Outputs.quiet := rfl
@[simp] theorem startOp_trace (s : State) : s.startOp.trace = s.trace := rfl
@[simp] theorem startOp_ops (s : State) : s.startOp.ops = s.ops + 1 := rfl

@[simp] theorem raiseEvent_cfg (s : State) (ev : Event) : (s.raiseEvent ev).cfg = s.cfg := rfl
@[simp] theorem raiseEvent_el (s : State) (ev : Event) : (s.raiseEvent ev).el = { s.el with ifr := setFlag s.el.ifr ev } := rfl
@[simp] theorem raiseEvent_out (s : State) (ev : Event) : (s.raiseEvent ev).out = s.out := rfl
@[simp] theorem raiseEvent_trace (s : State) (ev : Event) : (s.raiseEvent ev).trace = s.trace := rfl
@[simp] theorem raiseEvent_ops (s : State) (ev : Event) : (s.raiseEvent ev).ops = s.ops := rfl

@[simp] theorem enterHandler_cfg (s : State) (ev : Event) : (s.enterHandler ev).cfg = s.cfg := rfl
@[simp] theorem enterHandler_el (s : State) (ev : Event) : (s.enterHandler ev).el = { s.el with ifr := clearFlag s.el.ifr ev } := rfl
@[simp] theorem enterHandler_out (s : State) (ev : Event) : (s.enterHandler ev).out = s.out := rfl
@[simp] theorem enterHandler_trace (s : State) (ev : Event) : (s.enterHandler ev).trace = s.trace := rfl
@[simp] theorem enterHandler_ops (s : State) (ev : Event) : (s.enterHandler ev).ops = s.ops := rfl

@[simp] theorem latchSample_cfg (s : State) (d : Imm) : (s.latchSample d).cfg = s.cfg := rfl
@[simp] theorem latchSample_el (s : State) (d : Imm) : (s.latchSample d).el = { s.el with adcd := d } := rfl
@[simp] theorem latchSample_out (s : State) (d : Imm) : (s.latchSample d).out = s.out := rfl
@[simp] theorem latchSample_trace (s : State) (d : Imm) : (s.latchSample d).trace = s.trace := rfl
@[simp] theorem latchSample_ops (s : State) (d : Imm) : (s.latchSample d).ops = s.ops := rfl

@[simp] theorem conversionDone_cfg (s : State) (d : Imm) : (conversionDone d s).cfg = s.cfg := rfl
@[simp] theorem conversionDone_el (s : State) (d : Imm) : (conversionDone d s).el = { s.el with adcd := d, adcRun := false, ifr := setFlag s.el.ifr .conv } := rfl
@[simp] theorem conversionDone_out (s : State) (d : Imm) : (conversionDone d s).out = s.out := rfl
@[simp] theorem conversionDone_trace (s : State) (d : Imm) : (conversionDone d s).trace = s.trace := rfl
@[simp] theorem conversionDone_ops (s : State) (d : Imm) : (conversionDone d s).ops = s.ops := rfl

@[simp] theorem hConv_cfg (s : State) : (hConv s).cfg = s.cfg := rfl
@[simp] theorem hConv_el (s : State) : (hConv s).el = { s.el with raw := combineParts s.cfg s.el.adcd, adcRun := true } := rfl
@[simp] theorem hConv_out (s : State) : (hConv s).out = { s.out with adcStart := true } := rfl
@[simp] theorem hConv_trace (s : State) : (hConv s).trace = s.trace := rfl
@[simp] theorem hConv_ops (s : State) : (hConv s).ops = s.ops := rfl

@[simp] theorem hAge_cfg (s : State) : (hAge s).cfg = s.cfg := rfl
@[simp] theorem hAge_el (s : State) : (hAge s).el = { s.el with debi := agedCounter s.ops s.cfg s.el.debi, debd := agedCounter s.ops s.cfg s.el.debd } := rfl
@[simp] theorem hAge_out (s : State) : (hAge s).out = s.out := rfl
@[simp] theorem hAge_trace (s : State) : (hAge s).trace = s.trace := rfl
@[simp] theorem hAge_ops (s : State) : (hAge s).ops = s.ops := rfl

@[simp] theorem hPid_cfg (s : State) : (hPid s).cfg = s.cfg := rfl
@[simp] theorem hPid_out (s : State) : (hPid s).out = s.out := rfl
@[simp] theorem hPid_trace (s : State) : (hPid s).trace = s.trace := rfl
@[simp] theorem hPid_ops (s : State) : (hPid s).ops = s.ops := rfl

@[simp] theorem hTick_cfg (s : State) : (hTick s).cfg = s.cfg := rfl
@[simp] theorem hTick_out (s : State) : (hTick s).out = s.out := rfl
@[simp] theorem hTick_trace (s : State) : (hTick s).trace = s.trace := rfl
@[simp] theorem hTick_ops (s : State) : (hTick s).ops = s.ops := rfl

@[simp] theorem timerCount_cfg (s : State) (n : Imm) : (timerCount n s).cfg = s.cfg := rfl
@[simp] theorem timerCount_out (s : State) (n : Imm) : (timerCount n s).out = s.out := rfl
@[simp] theorem timerCount_trace (s : State) (n : Imm) : (timerCount n s).trace = s.trace := rfl
@[simp] theorem timerCount_ops (s : State) (n : Imm) : (timerCount n s).ops = s.ops := rfl

@[simp] theorem pwmCount_cfg (s : State) (n : Imm) : (pwmCount n s).cfg = s.cfg := rfl
@[simp] theorem pwmCount_el (s : State) (n : Imm) : (pwmCount n s).el = { s.el with pcnt := storeU16 s.ops (countUp s.el.period.toNat s.el.pcnt.toNat n.toNat) } := rfl
@[simp] theorem pwmCount_out (s : State) (n : Imm) : (pwmCount n s).out = s.out := rfl
@[simp] theorem pwmCount_trace (s : State) (n : Imm) : (pwmCount n s).trace = s.trace := rfl
@[simp] theorem pwmCount_ops (s : State) (n : Imm) : (pwmCount n s).ops = s.ops := rfl

@[simp] theorem resetAll_cfg (s : State) : (resetAll s).cfg = s.cfg := rfl
@[simp] theorem resetAll_el (s : State) : (resetAll s).el = Elements.reset s.cfg := rfl
@[simp] theorem resetAll_out (s : State) : (resetAll s).out = Outputs.afterReset := rfl
@[simp] theorem resetAll_trace (s : State) : (resetAll s).trace = s.trace := rfl
@[simp] theorem resetAll_ops (s : State) : (resetAll s).ops = s.ops := rfl

@[simp] theorem readRegister_cfg (s : State) (reg : Reg) : (readRegister reg s).cfg = s.cfg := rfl
@[simp] theorem readRegister_el (s : State) (reg : Reg) : (readRegister reg s).el = s.el := rfl
@[simp] theorem readRegister_out (s : State) (reg : Reg) : (readRegister reg s).out = { s.out with rdData := registerSpace s reg } := rfl
@[simp] theorem readRegister_trace (s : State) (reg : Reg) : (readRegister reg s).trace = s.trace := rfl
@[simp] theorem readRegister_ops (s : State) (reg : Reg) : (readRegister reg s).ops = s.ops := rfl

@[simp] theorem hTick_el_raw (s : State) : (hTick s).el.raw = s.el.raw := rfl
@[simp] theorem hTick_el_adcd (s : State) : (hTick s).el.adcd = s.el.adcd := rfl
@[simp] theorem hTick_el_adcRun (s : State) : (hTick s).el.adcRun = s.el.adcRun := rfl
@[simp] theorem hTick_el_sp (s : State) : (hTick s).el.sp = s.el.sp := rfl
@[simp] theorem hTick_el_period (s : State) : (hTick s).el.period = s.el.period := rfl
@[simp] theorem hTick_el_pcnt (s : State) : (hTick s).el.pcnt = s.el.pcnt := rfl
@[simp] theorem hTick_el_tcnt (s : State) : (hTick s).el.tcnt = s.el.tcnt := rfl
@[simp] theorem hTick_el_ifr (s : State) : (hTick s).el.ifr = s.el.ifr := rfl
@[simp] theorem hTick_el_debi (s : State) : (hTick s).el.debi = agedCounter s.ops s.cfg s.el.debi := rfl
@[simp] theorem hTick_el_debd (s : State) : (hTick s).el.debd = agedCounter s.ops s.cfg s.el.debd := rfl
@[simp] theorem hTick_el_duty (s : State) : (hTick s).el.duty = pidDuty s := rfl
@[simp] theorem hTick_el_perr (s : State) : (hTick s).el.perr = storeS32 s.ops (pidE s) := rfl
@[simp] theorem hTick_el_integ (s : State) : (hTick s).el.integ = pidInteg s := rfl
@[simp] theorem hTick_el_scnt (s : State) : (hTick s).el.scnt = pidScnt s := rfl

@[simp] theorem timerCount_el_raw (s : State) (n : Imm) : (timerCount n s).el.raw = s.el.raw := rfl
@[simp] theorem timerCount_el_adcd (s : State) (n : Imm) : (timerCount n s).el.adcd = s.el.adcd := rfl
@[simp] theorem timerCount_el_adcRun (s : State) (n : Imm) : (timerCount n s).el.adcRun = s.el.adcRun := rfl
@[simp] theorem timerCount_el_sp (s : State) (n : Imm) : (timerCount n s).el.sp = s.el.sp := rfl
@[simp] theorem timerCount_el_perr (s : State) (n : Imm) : (timerCount n s).el.perr = s.el.perr := rfl
@[simp] theorem timerCount_el_integ (s : State) (n : Imm) : (timerCount n s).el.integ = s.el.integ := rfl
@[simp] theorem timerCount_el_scnt (s : State) (n : Imm) : (timerCount n s).el.scnt = s.el.scnt := rfl
@[simp] theorem timerCount_el_debi (s : State) (n : Imm) : (timerCount n s).el.debi = s.el.debi := rfl
@[simp] theorem timerCount_el_debd (s : State) (n : Imm) : (timerCount n s).el.debd = s.el.debd := rfl
@[simp] theorem timerCount_el_duty (s : State) (n : Imm) : (timerCount n s).el.duty = s.el.duty := rfl
@[simp] theorem timerCount_el_period (s : State) (n : Imm) : (timerCount n s).el.period = s.el.period := rfl
@[simp] theorem timerCount_el_pcnt (s : State) (n : Imm) : (timerCount n s).el.pcnt = s.el.pcnt := rfl
@[simp] theorem timerCount_el_tcnt (s : State) (n : Imm) : (timerCount n s).el.tcnt = storeU16 s.ops (countUp (2 ^ s.cfg.tmrBits) s.el.tcnt.toNat n.toNat) := rfl
@[simp] theorem timerCount_el_ifr (s : State) (n : Imm) : (timerCount n s).el.ifr = setFlagIf (countWraps (2 ^ s.cfg.tmrBits) s.el.tcnt.toNat n.toNat) s.el.ifr .tick := rfl


@[simp] theorem hInc_cfg (s : State) : (hInc s).cfg = s.cfg := by unfold hInc; split <;> rfl
@[simp] theorem hInc_out (s : State) : (hInc s).out = s.out := by unfold hInc; split <;> rfl
@[simp] theorem hInc_trace (s : State) : (hInc s).trace = s.trace := by unfold hInc; split <;> rfl
@[simp] theorem hInc_ops (s : State) : (hInc s).ops = s.ops := by unfold hInc; split <;> rfl
@[simp] theorem hDec_cfg (s : State) : (hDec s).cfg = s.cfg := by unfold hDec; split <;> rfl
@[simp] theorem hDec_out (s : State) : (hDec s).out = s.out := by unfold hDec; split <;> rfl
@[simp] theorem hDec_trace (s : State) : (hDec s).trace = s.trace := by unfold hDec; split <;> rfl
@[simp] theorem hDec_ops (s : State) : (hDec s).ops = s.ops := by unfold hDec; split <;> rfl

/-- H_INC on the elements (R121). -/
theorem hInc_el (s : State) : (hInc s).el =
    if incAccepted s then { s.el with sp := storeS16 s.ops (s.el.sp.toInt + s.cfg.spStep), debi := 0#16 } else s.el := by
  unfold hInc; split <;> rfl

/-- H_DEC on the elements (R122). -/
theorem hDec_el (s : State) : (hDec s).el =
    if decAccepted s then { s.el with sp := storeS16 s.ops (s.el.sp.toInt - s.cfg.spStep), debd := 0#16 } else s.el := by
  unfold hDec; split <;> rfl

@[simp] theorem dispatchStep_cfg (s : State) : (dispatchStep s).cfg = s.cfg := by
  unfold dispatchStep
  split
  · rfl
  · rename_i ev _; cases ev <;> simp [handler]
@[simp] theorem dispatchStep_trace (s : State) : (dispatchStep s).trace = s.trace := by
  unfold dispatchStep
  split
  · rfl
  · rename_i ev _; cases ev <;> simp [handler]
@[simp] theorem dispatchStep_ops (s : State) : (dispatchStep s).ops = s.ops := by
  unfold dispatchStep
  split
  · rfl
  · rename_i ev _; cases ev <;> simp [handler]

end Sys2Proof.Machine
end

