-- ==== Sys2Proof/Laws/Ops.lean ====
section
/-! SUPPORT. The shared operations: a register holds exactly the integer stored in it when it fits, an operation completes
or is refused, the counters count, and the pending flags are set and cleared one at a time. -/

namespace Sys2Proof.Machine

/-! ### Storing -/

theorem storeU16_fits {k v : Nat} (h : v < 2 ^ 16) : (storeU16 k v).toNat = v := by
  unfold storeU16
  rw [if_pos h, BitVec.toNat_ofNat]
  omega

theorem storeS16_fits {k : Nat} {v : Int} (h0 : -2 ^ 15 ≤ v) (h1 : v < 2 ^ 15) : (storeS16 k v).toInt = v := by
  unfold storeS16
  rw [if_pos ⟨h0, h1⟩, BitVec.toInt_ofInt]
  exact Int.bmod_eq_of_le (by omega) (by omega)

theorem storeS32_fits {k : Nat} {v : Int} (h0 : -2 ^ 31 ≤ v) (h1 : v < 2 ^ 31) : (storeS32 k v).toInt = v := by
  unfold storeS32
  rw [if_pos ⟨h0, h1⟩, BitVec.toInt_ofInt]
  exact Int.bmod_eq_of_le (by omega) (by omega)

/-- A value that fits is stored whatever the operation's number (log entry 6). -/
theorem storeU16_ops {k k' v : Nat} (h : v < 2 ^ 16) : storeU16 k v = storeU16 k' v := by
  unfold storeU16; rw [if_pos h, if_pos h]

theorem storeS16_ops {k k' : Nat} {v : Int} (h0 : -2 ^ 15 ≤ v) (h1 : v < 2 ^ 15) : storeS16 k v = storeS16 k' v := by
  unfold storeS16; rw [if_pos ⟨h0, h1⟩, if_pos ⟨h0, h1⟩]

theorem storeS32_ops {k k' : Nat} {v : Int} (h0 : -2 ^ 31 ≤ v) (h1 : v < 2 ^ 31) : storeS32 k v = storeS32 k' v := by
  unfold storeS32; rw [if_pos ⟨h0, h1⟩, if_pos ⟨h0, h1⟩]

/-! ### One operation -/

/-- All that `operate` can answer (R18): the next state, or the refusal of an ill-formed `CFG`. -/
theorem operate_eq_next {s t : State} {f : State → State} :
    operate s f = .next t ↔ s.cfg.WellFormed ∧ t = f s.startOp := by
  unfold operate
  split
  · rename_i h
    exact ⟨fun e => ⟨h, (Host.Outcome.next.inj e).symm⟩, fun e => by rw [e.2]⟩
  · rename_i h
    exact ⟨fun e => (nomatch e), fun e => absurd e.1 h⟩

/-- All that `operateWhen` can answer with a next state: the spec states the operation there, and its effect. -/
theorem operateWhen_eq_next {b : Bool} {why : Refusal} {s t : State} {f : State → State} :
    operateWhen b why s f = .next t ↔ s.cfg.WellFormed ∧ b = true ∧ t = f s.startOp := by
  unfold operateWhen
  split
  · rename_i h
    split
    · rename_i h2
      exact ⟨fun e => ⟨h, h2, (Host.Outcome.next.inj e).symm⟩, fun e => by rw [e.2.2]⟩
    · rename_i h2
      exact ⟨fun e => (nomatch e), fun e => absurd e.2.1 h2⟩
  · rename_i h
    exact ⟨fun e => (nomatch e), fun e => absurd e.1 h⟩

/-- Where the spec does not state the operation it is refused, for its own reason. -/
theorem operateWhen_not_stated {b : Bool} {why : Refusal} {s : State} {f : State → State} (h : s.cfg.WellFormed)
    (hb : b = false) : operateWhen b why s f = .refused why := by
  subst hb; exact if_pos h

/-- The actuator is stated where `DUTY < PERIOD` (R156). -/
theorem actuatorStated_iff {s : State} : s.actuatorStated = true ↔ s.el.duty.toNat < s.el.period.toNat := by
  unfold State.actuatorStated; rw [decide_eq_true_iff, BitVec.lt_def]

theorem pwmOut_of_stated {s : State} (h : s.actuatorStated = true) :
    s.pwmOut = some (decide (s.el.pcnt < s.el.duty)) := if_pos h

theorem pwmOut_of_not_stated {s : State} (h : s.actuatorStated = false) : s.pwmOut = none := by
  unfold State.pwmOut; rw [h]; rfl

theorem operate_refused {s : State} {f : State → State} (h : ¬ s.cfg.WellFormed) :
    operate s f = .refused .illFormedConfig := if_neg h

theorem operateWhen_refused {b : Bool} {why : Refusal} {s : State} {f : State → State} (h : ¬ s.cfg.WellFormed) :
    operateWhen b why s f = .refused .illFormedConfig := if_neg h

theorem takeWord_cons {s : State} {w : Word} {rest : List Word} (h : s.trace = w :: rest) :
    s.takeWord = some (w, { s with trace := rest }) := by
  unfold State.takeWord; rw [h]

theorem takeWord_nil {s : State} (h : s.trace = []) : s.takeWord = none := by
  unfold State.takeWord; rw [h]

/-! ### Counters -/

/-- A counter in range stays in range (R152, R161). -/
theorem countUp_lt {m v n : Nat} (h : v < m) : countUp m v n < m := by
  unfold countUp; rw [if_pos h]; exact Nat.mod_lt _ (by omega)

theorem countUp_eq_mod {m v n : Nat} (h : v < m) : countUp m v n = (v + n) % m := if_pos h

/-- One count (R152, R161): up by one, or from the last state to 0. -/
theorem countUp_one {m v : Nat} (h : v < m) : countUp m v 1 = if v + 1 = m then 0 else v + 1 := by
  unfold countUp
  rw [if_pos h]
  split
  · rename_i h2; rw [h2]; exact Nat.mod_self m
  · exact Nat.mod_eq_of_lt (by omega)

/-- Counts add up (R86). -/
theorem countUp_add {m v a b : Nat} (h : v < m) : countUp m (countUp m v a) b = countUp m v (a + b) := by
  rw [countUp_eq_mod (countUp_lt h), countUp_eq_mod h, countUp_eq_mod h, Nat.mod_add_mod, Nat.add_assoc]

theorem countUp_zero {m v : Nat} (h : v < m) : countUp m v 0 = v := by
  rw [countUp_eq_mod h, Nat.add_zero, Nat.mod_eq_of_lt h]

theorem countWraps_eq {m v n : Nat} (h : v < m) : countWraps m v n = decide (m ≤ v + n) := by
  unfold countWraps; simp [h]

/-- A wrap in the first counts or in the later ones is a wrap (R86). -/
theorem countWraps_add {m v a b : Nat} (h : v < m) :
    countWraps m v (a + b) = (countWraps m v a || countWraps m (countUp m v a) b) := by
  rw [countWraps_eq h, countWraps_eq h, countWraps_eq (countUp_lt h), countUp_eq_mod h]
  by_cases h1 : m ≤ v + a
  · have h2 : m ≤ v + (a + b) := by omega
    simp [h1, h2]
  · rw [Nat.mod_eq_of_lt (by omega), Nat.add_assoc]
    simp [h1]

/-! ### The sample's parts -/

/-- The two parts together are the sample (R63): no bit of a sample in range is lost. -/
theorem combineParts_eq {c : Cfg} {v : Cell} (h8 : 8 ≤ c.adcBits) (h : v.toNat < 2 ^ c.adcBits) :
    combineParts c v = v := by
  have hp : 2 ^ c.adcBits = 2 ^ 8 * 2 ^ (c.adcBits - 8) := by rw [← Nat.pow_add]; congr 1; omega
  have h1 : v.toNat / 2 ^ 8 < 2 ^ (c.adcBits - 8) := Nat.div_lt_of_lt_mul (by rw [← hp]; exact h)
  have hl : (lowPart v).toNat = v.toNat % 2 ^ 8 := by simp [lowPart]
  unfold combineParts highPart
  rw [Nat.mod_eq_of_lt h1, hl]
  apply BitVec.eq_of_toNat_eq
  rw [BitVec.toNat_ofNat]
  have := v.isLt
  omega

/-! ### Pending flags -/

/-- Setting a flag sets it and leaves the others as they were (R182). -/
theorem pending_setFlag (f : BitVec 4) (ev ev' : Event) :
    pending (setFlag f ev) ev' = (decide (ev' = ev) || pending f ev') := by
  revert f; cases ev <;> cases ev' <;> decide

/-- Clearing a flag clears it and leaves the others as they were (R186). -/
theorem pending_clearFlag (f : BitVec 4) (ev ev' : Event) :
    pending (clearFlag f ev) ev' = (!decide (ev' = ev) && pending f ev') := by
  revert f; cases ev <;> cases ev' <;> decide

/-- An event whose flag is already 1 leaves it 1 (R183). -/
theorem setFlag_idem (f : BitVec 4) (ev : Event) : setFlag (setFlag f ev) ev = setFlag f ev := by
  revert f; cases ev <;> decide

theorem setFlag_comm (f : BitVec 4) (ev ev' : Event) :
    setFlag (setFlag f ev) ev' = setFlag (setFlag f ev') ev := by
  revert f; cases ev <;> cases ev' <;> decide

@[simp] theorem setFlagIf_true (f : BitVec 4) (ev : Event) : setFlagIf true f ev = setFlag f ev := rfl
@[simp] theorem setFlagIf_false (f : BitVec 4) (ev : Event) : setFlagIf false f ev = f := rfl

/-- Setting a flag if its event happened leaves the others as they were (R182). -/
theorem pending_setFlagIf (b : Bool) (f : BitVec 4) (ev ev' : Event) :
    pending (setFlagIf b f ev) ev' = ((b && decide (ev' = ev)) || pending f ev') := by
  cases b
  · simp
  · simp [pending_setFlag]

theorem highestPending_none_iff (f : BitVec 4) : highestPending f = none ↔ f = 0#4 := by
  revert f; decide

/-- The event served is pending, and none of higher priority is (R185). -/
theorem highestPending_some (f : BitVec 4) (ev : Event) :
    highestPending f = some ev ↔
      pending f ev = true ∧
        match ev with
        | .tick => True
        | .conv => pending f .tick = false
        | .inc => pending f .tick = false ∧ pending f .conv = false
        | .dec => pending f .tick = false ∧ pending f .conv = false ∧ pending f .inc = false := by
  revert f; cases ev <;> decide

/-- Two flag registers with the same four flags are the same (R34). -/
theorem ifr_ext {f g : BitVec 4} (h : ∀ ev, pending f ev = pending g ev) : f = g := by
  have h0 := h .tick
  have h1 := h .conv
  have h2 := h .inc
  have h3 := h .dec
  clear h
  revert f g; decide

end Sys2Proof.Machine
end

