-- ==== Sys2Proof/Laws/Pid.lean ====
section
/-! SUPPORT. INV taken apart, the ranges of the PID invocation's error under INV (R131, R143), and what H_TICK stores. -/

namespace Sys2Proof.Machine

variable {s : State}

theorem Inv_cfg (h : s.Inv) : s.cfg.WellFormed := h.1
theorem Inv_raw (h : s.Inv) : s.el.raw.toNat < 2 ^ s.cfg.adcBits := h.2.1
theorem Inv_adcd (h : s.Inv) : s.el.adcd.toNat < 2 ^ s.cfg.adcBits := h.2.2.1
theorem Inv_sp (h : s.Inv) : 0 ≤ s.el.sp.toInt ∧ s.el.sp.toInt ≤ s.cfg.spMax := h.2.2.2.1
theorem Inv_perr (h : s.Inv) : s.cfg.eLo ≤ s.el.perr.toInt ∧ s.el.perr.toInt ≤ s.cfg.eHi := h.2.2.2.2.1
theorem Inv_integ (h : s.Inv) : s.cfg.iLo ≤ s.el.integ.toInt ∧ s.el.integ.toInt ≤ s.cfg.iHi := h.2.2.2.2.2.1
theorem Inv_scnt (h : s.Inv) : s.el.scnt.toNat < s.cfg.resetCycles := h.2.2.2.2.2.2.1
theorem Inv_debi (h : s.Inv) : s.el.debi.toNat ≤ s.cfg.debMax := h.2.2.2.2.2.2.2.1
theorem Inv_debd (h : s.Inv) : s.el.debd.toNat ≤ s.cfg.debMax := h.2.2.2.2.2.2.2.2.1
theorem Inv_period (h : s.Inv) : s.el.period.toNat = s.cfg.pwmPeriod := h.2.2.2.2.2.2.2.2.2.1
theorem Inv_duty (h : s.Inv) : s.el.duty.toNat < s.el.period.toNat := h.2.2.2.2.2.2.2.2.2.2.1
theorem Inv_pcnt (h : s.Inv) : s.el.pcnt.toNat < s.el.period.toNat := h.2.2.2.2.2.2.2.2.2.2.2.1
theorem Inv_tcnt (h : s.Inv) : s.el.tcnt.toNat < 2 ^ s.cfg.tmrBits := h.2.2.2.2.2.2.2.2.2.2.2.2

/-- INV speaks of the elements and `CFG` only (R39). -/
theorem Inv_congr {s t : State} (hc : t.cfg = s.cfg) (he : t.el = s.el) (h : s.Inv) : t.Inv := by
  unfold State.Inv; rw [hc, he]; exact h

theorem rawMax_of_Inv (h : s.Inv) : (s.el.raw.toNat : Int) ≤ s.cfg.rawMax := by
  have h1 : (s.el.raw.toNat : Int) < ((2 ^ s.cfg.adcBits : Nat) : Int) := by exact_mod_cast Inv_raw h
  rw [Nat.cast_pow, Nat.cast_ofNat] at h1
  unfold Cfg.rawMax; omega

/-- The scaled setpoint lies between 0 and `E_HI` (R131). -/
theorem pidSpS_range (h : s.Inv) : 0 ≤ pidSpS s ∧ pidSpS s ≤ s.cfg.eHi := by
  have hd : (0 : Int) < s.cfg.spDen := by have := Cfg.spDen_pos (Inv_cfg h); omega
  have hn : (0 : Int) ≤ s.cfg.spNum := by omega
  exact ⟨fdiv_nonneg (mul_nonneg (Inv_sp h).1 hn) hd, fdiv_mono (mul_le_mul_of_nonneg_right (Inv_sp h).2 hn) hd⟩

/-- The error lies between `E_LO` and `E_HI` (R131, R143). -/
theorem pidE_range (h : s.Inv) : s.cfg.eLo ≤ pidE s ∧ pidE s ≤ s.cfg.eHi := by
  have h1 := pidSpS_range h
  have h2 := rawMax_of_Inv h
  unfold pidE Cfg.eLo
  omega

theorem pidE_fits (h : s.Inv) : -2 ^ 31 ≤ pidE s ∧ pidE s < 2 ^ 31 := by
  have h1 := pidE_range h
  have h2 := Cfg.eLo_ge (Inv_cfg h)
  have h3 := Cfg.eHi_le (Inv_cfg h)
  omega

/-- The clamped accumulation lies between the clamp bounds (R133). -/
theorem pidAcc2_range (h : s.cfg.WellFormed) : s.cfg.iLo ≤ pidAcc2 s ∧ pidAcc2 s ≤ s.cfg.iHi :=
  clamp_mem _ (le_trans (Cfg.iLo_nonpos h) (Cfg.iHi_nonneg h))

theorem pidAcc2_fits (h : s.cfg.WellFormed) : -2 ^ 31 ≤ pidAcc2 s ∧ pidAcc2 s < 2 ^ 31 := by
  have h1 := pidAcc2_range h
  have h2 := Cfg.iLo_ge h
  have h3 := Cfg.iHi_le h
  omega

/-- What step 5 stores (R136), for every `PERIOD ≥ 1` (R140). -/
theorem pidDuty_toNat (h : 1 ≤ s.el.period.toNat) :
    ((pidDuty s).toNat : Int) = clamp (pidOut s) 0 (s.el.period.toNat - 1) := by
  have hp := s.el.period.isLt
  have hc := clamp_mem (pidOut s) (lo := 0) (hi := (s.el.period.toNat : Int) - 1) (by omega)
  unfold pidDuty
  rw [if_pos h, storeU16_fits (by omega)]
  omega

theorem pidDuty_lt (h : 1 ≤ s.el.period.toNat) : (pidDuty s).toNat < s.el.period.toNat := by
  have hc := clamp_mem (pidOut s) (lo := 0) (hi := (s.el.period.toNat : Int) - 1) (by omega)
  have := pidDuty_toNat h
  omega

/-- A debounce counter ages by one, up to `DEB_MAX` (R120). -/
theorem agedCounter_toNat {k : Nat} {c : Cfg} (h : c.WellFormed) (v : Cell) :
    (agedCounter k c v).toNat = min (v.toNat + 1) c.debMax := by
  have := Cfg.debMax_le h
  unfold agedCounter
  exact storeU16_fits (by omega)

theorem period_pos (h : s.Inv) : 1 ≤ s.el.period.toNat := by
  have h1 := Cfg.pwmPeriod_ge (Inv_cfg h)
  have h2 := Inv_period h
  omega

/-- The sample counter reaches `RESET_CYCLES` only by equality (R138, R142). -/
theorem pidCnt_le (h : s.Inv) : pidCnt s ≤ s.cfg.resetCycles := by
  have := Inv_scnt h; unfold pidCnt; omega

theorem pidCnt_fits (h : s.Inv) : pidCnt s < 2 ^ 16 := by
  have h1 := pidCnt_le h
  have h2 := Cfg.resetCycles_le (Inv_cfg h)
  omega

/-- What step 7 leaves in the integral, as an integer (R138). -/
theorem pidInteg_toInt (h : s.cfg.WellFormed) :
    (pidInteg s).toInt = if pidCnt s = s.cfg.resetCycles then 0 else pidAcc2 s := by
  have f := pidAcc2_fits (s := s) h
  unfold pidInteg
  split
  · rfl
  · exact storeS32_fits f.1 f.2

/-- What step 7 leaves in the sample counter, as a number (R138). -/
theorem pidScnt_toNat (h : s.Inv) :
    (pidScnt s).toNat = if pidCnt s = s.cfg.resetCycles then 0 else pidCnt s := by
  unfold pidScnt
  split
  · rfl
  · exact storeU16_fits (pidCnt_fits h)

end Sys2Proof.Machine
end

