-- ==== Sys2Proof/Laws/Exec.lean ====
section
/-! SUPPORT. Every operation in one form: it is refused, or its effect is applied to the state in which it begins. -/

namespace Sys2Proof.Machine

/-- The effect of each operation on the state in which it begins, gathered from the meanings. -/
def effectOf (i : Instr) (s : State) : State :=
  match i with
  | .nop => s
  | .rst => resetAll s
  | .adcdone d => conversionDone d s
  | .conv d => hConv (s.latchSample d)
  | .incedge => s.raiseEvent .inc
  | .decedge => s.raiseEvent .dec
  | .inc => hInc s
  | .dec => hDec s
  | .tclk n => timerCount n s
  | .tick => hTick s
  | .pclk n => pwmCount n s
  | .svc => dispatchStep s
  | .rd reg => readRegister reg s

/-- Where the spec states each operation under a well-formed `CFG`: a sample in range (R85), the actuator below the period
(R156), a word that has a value (U1). -/
def stated (i : Instr) (s : State) : Bool :=
  match i with
  | .nop => true
  | .rst => true
  | .adcdone d => s.cfg.sampleOk d
  | .conv d => s.cfg.sampleOk d
  | .incedge => true
  | .decedge => true
  | .inc => true
  | .dec => true
  | .tclk _ => true
  | .tick => true
  | .pclk _ => s.actuatorStated
  | .svc => true
  | .rd reg => (registerSpace s reg).isSome

/-- All that `exec` can answer with a next state (R18): `CFG` is well formed, the operation is stated there, and the state
is its effect. -/
theorem exec_eq_next {i : Instr} {s t : State} :
    exec i s = .next t ↔ s.cfg.WellFormed ∧ stated i s = true ∧ t = effectOf i s.startOp := by
  have plain : ∀ f : State → State, operate s f = .next t ↔ s.cfg.WellFormed ∧ true = true ∧ t = f s.startOp :=
    fun f => operate_eq_next.trans ⟨fun h => ⟨h.1, rfl, h.2⟩, fun h => ⟨h.1, h.2.2⟩⟩
  cases i with
  | nop => exact plain id
  | rst => exact plain resetAll
  | adcdone d => exact operateWhen_eq_next (f := conversionDone d)
  | conv d => exact operateWhen_eq_next (f := fun t => hConv (t.latchSample d))
  | incedge => exact plain (fun t => t.raiseEvent .inc)
  | decedge => exact plain (fun t => t.raiseEvent .dec)
  | inc => exact plain hInc
  | dec => exact plain hDec
  | tclk n => exact plain (timerCount n)
  | tick => exact plain hTick
  | pclk n => exact operateWhen_eq_next (f := pwmCount n)
  | svc => exact plain dispatchStep
  | rd reg => exact operateWhen_eq_next (f := readRegister reg)

/-- Under a well-formed `CFG` every operation completes where it is stated (R18). -/
theorem exec_next {i : Instr} {s : State} (hc : s.cfg.WellFormed) (hi : stated i s = true) :
    exec i s = .next (effectOf i s.startOp) := exec_eq_next.mpr ⟨hc, hi, rfl⟩

/-- Why an operation that is not stated is refused; an operation that is always stated has no such reason. -/
def refusalOf (i : Instr) : Option Refusal :=
  match i with
  | .nop => none
  | .rst => none
  | .adcdone _ => some (.noOperation .sampleOutOfRange)
  | .conv _ => some (.noOperation .sampleOutOfRange)
  | .incedge => none
  | .decedge => none
  | .inc => none
  | .dec => none
  | .tclk _ => none
  | .tick => none
  | .pclk _ => some .dutyNotBelowPeriod
  | .svc => none
  | .rd _ => some .dutyNotBelowPeriod

/-- Under a well-formed `CFG` an operation that is not stated is refused, for its one reason. -/
theorem exec_not_stated {i : Instr} {s : State} (hc : s.cfg.WellFormed) (hi : stated i s = false) :
    ∃ r, refusalOf i = some r ∧ exec i s = .refused r := by
  cases i with
  | adcdone d => exact ⟨_, rfl, operateWhen_not_stated (f := conversionDone d) hc hi⟩
  | conv d => exact ⟨_, rfl, operateWhen_not_stated (f := fun t => hConv (t.latchSample d)) hc hi⟩
  | pclk n => exact ⟨_, rfl, operateWhen_not_stated hc hi⟩
  | rd reg => exact ⟨_, rfl, operateWhen_not_stated hc hi⟩
  | _ => exact nomatch hi

/-- `STATUS` has a value where `PWM_OUT` has one (R62). -/
theorem statusWord_isSome (s : State) : s.statusWord.isSome = s.actuatorStated := by
  unfold State.statusWord
  cases h : s.actuatorStated
  · rw [pwmOut_of_not_stated h]; rfl
  · rw [pwmOut_of_stated h]; rfl

/-- Every word of the register space has a value where the actuator is stated (R61), and all but `STATUS` anywhere. -/
theorem registerSpace_isSome {s : State} {reg : Reg} (h : reg = .status → s.actuatorStated = true) :
    (registerSpace s reg).isSome = true := by
  cases reg with
  | status => exact (statusWord_isSome s).trans (h rfl)
  | _ => rfl

/-- An operation that can happen is stated in every state with `DUTY < PERIOD`, so in every reachable one (R18, R155). -/
theorem stated_of_wf {i : Instr} {s : State} (hi : i.wf s.cfg = true) (hd : s.el.duty.toNat < s.el.period.toNat) :
    stated i s = true := by
  cases i with
  | adcdone d => exact hi
  | conv d => exact hi
  | pclk n => exact actuatorStated_iff.mpr hd
  | rd reg => exact registerSpace_isSome fun _ => actuatorStated_iff.mpr hd
  | _ => rfl

/-- An operation that completes is one that can happen (R85). -/
theorem wf_of_stated {i : Instr} {s : State} (h : stated i s = true) : i.wf s.cfg = true := by
  cases i with
  | adcdone d => exact h
  | conv d => exact h
  | _ => rfl

/-- An ill-formed `CFG` is refused by every operation (R11). -/
theorem exec_illFormed (i : Instr) {s : State} (h : ¬ s.cfg.WellFormed) : exec i s = .refused .illFormedConfig := by
  cases i with
  | adcdone d => exact operateWhen_refused (f := conversionDone d) h
  | conv d => exact operateWhen_refused (f := fun t => hConv (t.latchSample d)) h
  | incedge => exact operate_refused (f := fun t => t.raiseEvent .inc) h
  | decedge => exact operate_refused (f := fun t => t.raiseEvent .dec) h
  | nop => exact operate_refused h
  | rst => exact operate_refused h
  | inc => exact operate_refused h
  | dec => exact operate_refused h
  | tclk n => exact operate_refused h
  | tick => exact operate_refused h
  | pclk n => exact operateWhen_refused h
  | svc => exact operate_refused h
  | rd reg => exact operateWhen_refused h

@[simp] theorem effectOf_cfg (i : Instr) (s : State) : (effectOf i s).cfg = s.cfg := by
  cases i <;> simp [effectOf]

@[simp] theorem effectOf_trace (i : Instr) (s : State) : (effectOf i s).trace = s.trace := by
  cases i <;> simp [effectOf]

/-- No operation writes `CFG` (R35). -/
theorem exec_cfg {i : Instr} {s t : State} (h : exec i s = .next t) : t.cfg = s.cfg := by
  obtain ⟨-, -, rfl⟩ := exec_eq_next.mp h
  simp

/-- No operation touches the words still to come. -/
theorem exec_trace {i : Instr} {s t : State} (h : exec i s = .next t) : t.trace = s.trace := by
  obtain ⟨-, -, rfl⟩ := exec_eq_next.mp h
  simp

/-- The dispatch step, case by case (R186). -/
theorem dispatchStep_none {s : State} (h : highestPending s.el.ifr = none) : dispatchStep s = s := by
  unfold dispatchStep; rw [h]

theorem dispatchStep_some {s : State} {ev : Event} (h : highestPending s.el.ifr = some ev) :
    dispatchStep s = handler ev (s.enterHandler ev) := by
  unfold dispatchStep; rw [h]

/-- All that `step` can answer with a next state: it was idle, or it performed the decoded operation. -/
theorem step_eq_next {s t : State} (h : step s = .next t) :
    s.cfg.WellFormed ∧
      ((s.trace = [] ∧ t = s) ∨
        ∃ w rest i, s.trace = w :: rest ∧ decode s.cfg w = .ok i ∧ exec i { s with trace := rest } = .next t) := by
  unfold step at h
  split at h
  · rename_i hc
    refine ⟨hc, ?_⟩
    cases ht : s.trace with
    | nil =>
      rw [takeWord_nil ht] at h
      exact .inl ⟨rfl, (Host.Outcome.next.inj h).symm⟩
    | cons w rest =>
      rw [takeWord_cons ht] at h
      refine .inr ⟨w, rest, ?_⟩
      cases hd : decode s.cfg w with
      | error why =>
        simp only [hd] at h
        exact nomatch h
      | ok i =>
        simp only [hd] at h
        exact ⟨i, rfl, rfl, h⟩
  · exact nomatch h

/-- The host's run of a machine, one step at a time. -/
theorem run_succ_next {m : Host.Core} {k : Nat} {s t : m.State} (h : m.step s = .next t) :
    m.run (k + 1) s = m.run k t := by
  simp only [Host.Core.run, h]

theorem run_succ_refused {m : Host.Core} {k : Nat} {s : m.State} {r : m.Refusal} (h : m.step s = .refused r) :
    m.run (k + 1) s = .refused r := by
  simp only [Host.Core.run, h]

/-- A list of operations, one operation at a time (R70). -/
theorem execAll_cons_next {i : Instr} {l : List Instr} {s t : State} (h : exec i s = .next t) :
    execAll (i :: l) s = execAll l t := by
  simp only [execAll, h]

theorem sumAlong_cons_next {f : Instr → State → Nat} {i : Instr} {l : List Instr} {s t : State}
    (h : exec i s = .next t) : sumAlong f (i :: l) s = f i s + sumAlong f l t := by
  simp only [sumAlong, h]

theorem holdsAlong_cons_next {p : Instr → State → Bool} {i : Instr} {l : List Instr} {s t : State}
    (h : exec i s = .next t) : holdsAlong p (i :: l) s = (p i s && holdsAlong p l t) := by
  simp only [holdsAlong, h]

end Sys2Proof.Machine
end

