-- ==== Sys2Proof/Laws/PerInstr.lean ====
section
/-! SUPPORT. Statements made for every operation, one lemma per constructor of Instr: the word it is encoded in has the
layout of R82 and is legal in its format (R83). -/

namespace Sys2Proof.Laws.EncodedWordIsLegal

/-- The encoded word has the operation's code, an all-zero ZERO field and no bit in a field its format does not use. -/
def Statement (i : Instr) : Prop :=
  Opcode.ofBits (opcField (encode i)) = some i.opcode ∧ zeroField (encode i) = 0#8 ∧
    formatFault i.opcode.format (encode i) = none

theorem of_fields (i : Instr) (h : i.opcode.format = .n → i.regBits = 0#4 ∧ i.immBits = 0#16)
    (hi : i.opcode.format = .i → i.regBits = 0#4) (hr : i.opcode.format = .r → i.immBits = 0#16) : Statement i := by
  obtain ⟨h1, h2, h3, h4⟩ := encode_fields i
  refine ⟨by rw [h1, opcode_ofBits_toBits], h3, ?_⟩
  unfold formatFault
  split
  · rename_i e
    rw [if_pos ((low28_eq_zero_iff _).mpr ⟨h2.trans (h e).1, h3, h4.trans (h e).2⟩)]
  · rename_i e
    rw [if_pos (h2.trans (hi e))]
  · rename_i e
    rw [if_pos (h4.trans (hr e))]

theorem nop : Statement .nop := of_fields _ (fun _ => ⟨rfl, rfl⟩) nofun nofun
theorem rst : Statement .rst := of_fields _ (fun _ => ⟨rfl, rfl⟩) nofun nofun
theorem adcdone (d : Imm) : Statement (.adcdone d) := of_fields _ nofun (fun _ => rfl) nofun
theorem conv (d : Imm) : Statement (.conv d) := of_fields _ nofun (fun _ => rfl) nofun
theorem incedge : Statement .incedge := of_fields _ (fun _ => ⟨rfl, rfl⟩) nofun nofun
theorem decedge : Statement .decedge := of_fields _ (fun _ => ⟨rfl, rfl⟩) nofun nofun
theorem inc : Statement .inc := of_fields _ (fun _ => ⟨rfl, rfl⟩) nofun nofun
theorem dec : Statement .dec := of_fields _ (fun _ => ⟨rfl, rfl⟩) nofun nofun
theorem tclk (n : Imm) : Statement (.tclk n) := of_fields _ nofun (fun _ => rfl) nofun
theorem tick : Statement .tick := of_fields _ (fun _ => ⟨rfl, rfl⟩) nofun nofun
theorem pclk (n : Imm) : Statement (.pclk n) := of_fields _ nofun (fun _ => rfl) nofun
theorem svc : Statement .svc := of_fields _ (fun _ => ⟨rfl, rfl⟩) nofun nofun
theorem rd (reg : Reg) : Statement (.rd reg) := of_fields _ nofun nofun (fun _ => rfl)

end Sys2Proof.Laws.EncodedWordIsLegal
end

