-- ==== Sys2Proof/Tests/Slice0.lean ====
section
/-! SUPPORT. Tests. Expected values come from the vectors of spec/95_test_vectors.md (the name of the vector is in the
comment) or from the rule cited, never from the model. Then, for every obligation with hypotheses, a state and operands
that meet them. -/

namespace Sys2Proof.Tests

open Sys2Proof.Machine

/-- The reset state of a configuration with some elements replaced: `reset+(...)` of the vectors. -/
def start (c : Cfg) (f : Elements → Elements) : State :=
  { State.reset with cfg := c, el := f (Elements.reset c), out := Outputs.quiet }

/-- The next state has the property. -/
def gives (o : Host.Outcome State Fault Refusal) (p : State → Bool) : Bool :=
  match o with
  | .next t => p t
  | .fault _ => false
  | .refused _ => false

/-- The operation is refused for this reason. -/
def isRefused (o : Host.Outcome State Fault Refusal) (r : Refusal) : Bool :=
  match o with
  | .next _ => false
  | .fault _ => false
  | .refused q => decide (q = r)

/-- The word that is read, if it is the operation's output. -/
def reads (reg : Reg) (s : State) (w : Word) : Bool :=
  gives (exec (.rd reg) s) (fun t => decide (t.out.rdData = some w ∧ t.el = s.el))

/-! ### Well-formedness: one ill-formed configuration for each check (R10, R11) -/

theorem test_wf_p0 : Cfg.p0.WellFormed := by decide
theorem test_wf_adc_bits_low : ¬ Cfg.WellFormed { Cfg.p0 with adcBits := 7 } := by decide
theorem test_wf_adc_bits_high : ¬ Cfg.WellFormed { Cfg.p0 with adcBits := 17 } := by decide
theorem test_wf_tmr_bits_low : ¬ Cfg.WellFormed { Cfg.p0 with tmrBits := 0 } := by decide
theorem test_wf_tmr_bits_high : ¬ Cfg.WellFormed { Cfg.p0 with tmrBits := 17 } := by decide
theorem test_wf_q : ¬ Cfg.WellFormed { Cfg.p0 with q := 0 } := by decide
theorem test_wf_sp_num : ¬ Cfg.WellFormed { Cfg.p0 with spNum := 0 } := by decide
theorem test_wf_sp_den : ¬ Cfg.WellFormed { Cfg.p0 with spDen := 0 } := by decide
theorem test_wf_out_num : ¬ Cfg.WellFormed { Cfg.p0 with outNum := 0 } := by decide
theorem test_wf_out_den : ¬ Cfg.WellFormed { Cfg.p0 with outDen := 0 } := by decide
theorem test_wf_i_lo : ¬ Cfg.WellFormed { Cfg.p0 with iLo := 1 } := by decide
theorem test_wf_i_hi : ¬ Cfg.WellFormed { Cfg.p0 with iHi := -1 } := by decide
theorem test_wf_pwm_period_low : ¬ Cfg.WellFormed { Cfg.p0 with pwmPeriod := 0 } := by decide
theorem test_wf_pwm_period_high : ¬ Cfg.WellFormed { Cfg.p0 with pwmPeriod := 65536 } := by decide
theorem test_wf_sp_max : ¬ Cfg.WellFormed { Cfg.p0 with spMax := 32768 } := by decide
theorem test_wf_sp_step_low : ¬ Cfg.WellFormed { Cfg.p0 with spStep := 0 } := by decide
theorem test_wf_sp_step_high : ¬ Cfg.WellFormed { Cfg.p0 with spStep := 32768 } := by decide
theorem test_wf_deb_thresh : ¬ Cfg.WellFormed { Cfg.p0 with debThresh := 256 } := by decide
theorem test_wf_deb_bits_low : ¬ Cfg.WellFormed { Cfg.p0 with debBits := 0, debThresh := 0, debMax := 0 } := by decide
theorem test_wf_deb_bits_high : ¬ Cfg.WellFormed { Cfg.p0 with debBits := 17 } := by decide
theorem test_wf_deb_max : ¬ Cfg.WellFormed { Cfg.p0 with debMax := 256 } := by decide
theorem test_wf_reset_cycles_low : ¬ Cfg.WellFormed { Cfg.p0 with resetCycles := 0 } := by decide
theorem test_wf_reset_cycles_high : ¬ Cfg.WellFormed { Cfg.p0 with resetCycles := 65536 } := by decide
theorem test_wf_t_ns : ¬ Cfg.WellFormed { Cfg.p0 with tNs := 0 } := by decide
/-- V0: 2 × 2^30 is above 2^31 − 1; the scaled setpoint is kept small by the divisor. -/
theorem test_wf_v0 : ¬ Cfg.WellFormed { Cfg.p0 with spMax := 2, spNum := 1073741824, spDen := 1073741824 } := by decide
/-- V1: 16711680 + 2099200 × 1023 is above 2^31 − 1; V2 does not speak of the integral gain. -/
theorem test_wf_v1 : ¬ Cfg.WellFormed { Cfg.p0 with kiCoef := 2099200 } := by decide
/-- V2: the output sum of P0 (R12: 284 884 992) times 8 is above 2^31 − 1; times 7 it is not. -/
theorem test_wf_v2 :
    ¬ Cfg.WellFormed { Cfg.p0 with outNum := 8 } ∧ Cfg.WellFormed { Cfg.p0 with outNum := 7 } := by decide
/-- The bounds of V1 and V2 that R12 writes out. -/
theorem test_r12_bounds :
    Cfg.p0.iAbs + Cfg.p0.kiCoef.natAbs * Cfg.p0.eAbs = 17055408 ∧ Cfg.p2.dAbs = 2023 ∧
    Cfg.p3.iAbs + Cfg.p3.kiCoef.natAbs * Cfg.p3.eAbs = 26023776 ∧ Cfg.p6.eHi = 1023 := by decide
/-- An operation that cannot happen under P0 (vector A7), and one that can with eleven bits. -/
theorem test_wf_sample :
    Instr.wf Cfg.p0 (.adcdone 1024#16) = false ∧ Instr.wf Cfg.p0 (.conv 1024#16) = false ∧
    Instr.wf { Cfg.p0 with adcBits := 11 } (.adcdone 1024#16) = true := by decide
theorem test_ill_formed_refused :
    isRefused (step (start { Cfg.p0 with q := 0 } id)) .illFormedConfig = true ∧
    isRefused (exec .nop (start { Cfg.p0 with q := 0 } id)) .illFormedConfig = true := by decide

/-! ### Decoding: the words of section 2.7, P0 -/

theorem test_decode_nop : decode Cfg.p0 0x00000000#32 = .ok .nop := by decide
theorem test_decode_rst : decode Cfg.p0 0x10000000#32 = .ok .rst := by decide
theorem test_decode_adcdone : decode Cfg.p0 0x2000012C#32 = .ok (.adcdone 300#16) := by decide
theorem test_decode_conv : decode Cfg.p0 0x30000200#32 = .ok (.conv 512#16) := by decide
theorem test_decode_incedge : decode Cfg.p0 0x40000000#32 = .ok .incedge := by decide
theorem test_decode_decedge : decode Cfg.p0 0x50000000#32 = .ok .decedge := by decide
theorem test_decode_inc : decode Cfg.p0 0x60000000#32 = .ok .inc := by decide
theorem test_decode_dec : decode Cfg.p0 0x70000000#32 = .ok .dec := by decide
theorem test_decode_tclk : decode Cfg.p0 0x8000FFFF#32 = .ok (.tclk 65535#16) := by decide
theorem test_decode_tick : decode Cfg.p0 0x90000000#32 = .ok .tick := by decide
theorem test_decode_pclk : decode Cfg.p0 0xA0000400#32 = .ok (.pclk 1024#16) := by decide
theorem test_decode_svc : decode Cfg.p0 0xB0000000#32 = .ok .svc := by decide
theorem test_decode_rd :
    decode Cfg.p0 0xC0000000#32 = .ok (.rd .raw) ∧ decode Cfg.p0 0xC2000000#32 = .ok (.rd .duty) ∧
    decode Cfg.p0 0xC9000000#32 = .ok (.rd .status) ∧ decode Cfg.p0 0xCC000000#32 = .ok (.rd .pcnt) ∧
    decode Cfg.p0 0xCD000000#32 = .ok (.rd .r13) ∧ decode Cfg.p0 0xCF000000#32 = .ok (.rd .r15) := by decide
theorem test_decode_none :
    decode Cfg.p0 0xC2010000#32 = .error .zeroFieldNotZero ∧ decode Cfg.p0 0x00010000#32 = .error .zeroFieldNotZero ∧
    decode Cfg.p0 0xFFFFFFFF#32 = .error .zeroFieldNotZero ∧ decode Cfg.p0 0xD0000000#32 = .error .reservedOpcode ∧
    decode Cfg.p0 0xE0000000#32 = .error .reservedOpcode ∧ decode Cfg.p0 0xF0000000#32 = .error .reservedOpcode ∧
    decode Cfg.p0 0x40000001#32 = .error .operandInFormatN ∧ decode Cfg.p0 0x9F000000#32 = .error .operandInFormatN ∧
    decode Cfg.p0 0x81000000#32 = .error .regInFormatI ∧ decode Cfg.p0 0xC2000001#32 = .error .immInFormatR ∧
    decode Cfg.p0 0x20000400#32 = .error .sampleOutOfRange ∧
    decode Cfg.p0 0x3000FFFF#32 = .error .sampleOutOfRange := by decide
/-- The two words of the table that a wider converter makes legal. -/
theorem test_decode_wider_converter :
    decode { Cfg.p0 with adcBits := 11 } 0x20000400#32 = .ok (.adcdone 1024#16) ∧
    decode { Cfg.p0 with adcBits := 16 } 0x3000FFFF#32 = .ok (.conv 65535#16) := by decide
theorem test_encode :
    encode (.adcdone 1023#16) = 0x200003FF#32 ∧ encode (.conv 679#16) = 0x300002A7#32 ∧
    encode (.pclk 624#16) = 0xA0000270#32 ∧ encode (.rd .integ) = 0xC4000000#32 ∧ encode .svc = 0xB0000000#32 := by
  decide
theorem test_table_word :
    decodeTableWord 32 0x30000200 = some (.conv 512#16) ∧ decodeTableWord 32 0xD0000000 = none := by decide
/-- The word put in the trace is the next operation performed. -/
theorem test_fetch_word :
    gives (step (State.reset.withFetchWord 32 0x30000200))
      (fun t => decide (t.el.raw = 512#16 ∧ t.trace = [] ∧ t.out.adcStart = true)) = true := by decide
theorem test_idle_and_no_operation :
    gives (step State.reset) (fun t => decide (t = State.reset)) = true ∧
    isRefused (step (State.reset.withFetchWord 32 0xD0000000)) (.noOperation .reservedOpcode) = true := by decide

/-! ### Feedback sampler -/

/-- A2 -/
theorem test_adcdone :
    gives (exec (.adcdone 1023#16) (start Cfg.p0 id)) (fun t => decide
      (t.el = { Elements.reset Cfg.p0 with adcd := 1023#16, adcRun := false, ifr := 0b0010#4 } ∧
        t.out = Outputs.quiet)) = true := by decide
/-- A6: coalesced, the first sample is never stored. -/
theorem test_adcdone_twice :
    gives (execAll [.adcdone 100#16, .adcdone 200#16, .svc] (start Cfg.p0 id)) (fun t => decide
      (t.el = { Elements.reset Cfg.p0 with adcd := 200#16, raw := 200#16 } ∧ t.out.adcStart = true)) = true := by decide
/-- A4, with CONVF pending: it stays pending (R113). -/
theorem test_conv :
    gives (exec (.conv 0x2A7#16) (start Cfg.p0 (fun e => { e with ifr := 0b0010#4 }))) (fun t => decide
      (t.el.raw = 679#16 ∧ t.el.adcd = 679#16 ∧ t.el.ifr = 0b0010#4 ∧ t.out.adcStart = true)) = true := by decide
/-- A5 -/
theorem test_conv_zero :
    gives (exec (.conv 0#16) (start Cfg.p0 (fun e => { e with raw := 700#16, adcd := 700#16 }))) (fun t => decide
      (t.el.raw = 0#16 ∧ t.el.adcd = 0#16)) = true := by decide

/-! ### Setpoint store -/

/-- D17 -/
theorem test_incedge :
    gives (exec .incedge (start Cfg.p0 (fun e => { e with debi := 255#16 }))) (fun t => decide
      (t.el = { Elements.reset Cfg.p0 with debi := 255#16, ifr := 0b0100#4 })) = true := by decide
/-- R124: DECF, and a flag already set stays set. -/
theorem test_decedge :
    gives (exec .decedge (start Cfg.p0 (fun e => { e with ifr := 0b1100#4 }))) (fun t => decide
      (t.el = { Elements.reset Cfg.p0 with ifr := 0b1100#4 })) = true := by decide
/-- D11: both tests are inclusive. -/
theorem test_inc_accepted :
    gives (exec .inc (start Cfg.p0 (fun e => { e with sp := 990#16, debi := 100#16, debd := 7#16 }))) (fun t => decide
      (t.el = { Elements.reset Cfg.p0 with sp := 1000#16, debd := 7#16 })) = true := by decide
/-- D8 and D13: rejected for the range, without saturation, and for the window. -/
theorem test_inc_rejected :
    gives (exec .inc (start Cfg.p0 (fun e => { e with sp := 995#16, debi := 255#16 }))) (fun t => decide
      (t.el = { Elements.reset Cfg.p0 with sp := 995#16, debi := 255#16 })) = true ∧
    gives (exec .inc (start Cfg.p0 (fun e => { e with debi := 99#16 }))) (fun t => decide
      (t.el = { Elements.reset Cfg.p0 with debi := 99#16 })) = true := by decide
/-- D12 -/
theorem test_dec_accepted :
    gives (exec .dec (start Cfg.p0 (fun e => { e with sp := 10#16, debd := 100#16, debi := 9#16 }))) (fun t => decide
      (t.el = { Elements.reset Cfg.p0 with debi := 9#16 })) = true := by decide
/-- D10 and D9 -/
theorem test_dec_rejected :
    gives (exec .dec (start Cfg.p0 (fun e => { e with sp := 5#16, debd := 255#16 }))) (fun t => decide
      (t.el = { Elements.reset Cfg.p0 with sp := 5#16, debd := 255#16 })) = true ∧
    gives (exec .dec (start Cfg.p0 (fun e => { e with debd := 255#16 }))) (fun t => decide
      (t.el = { Elements.reset Cfg.p0 with debd := 255#16 })) = true := by decide

/-! ### Control scheduler and PID controller -/

/-- T1 and T2 -/
theorem test_tclk_wraps :
    gives (exec (.tclk 10#16) (start Cfg.p0 (fun e => { e with tcnt := 250#16 }))) (fun t => decide
      (t.el = { Elements.reset Cfg.p0 with tcnt := 4#16, ifr := 0b0001#4 })) = true ∧
    gives (exec (.tclk 1#16) (start Cfg.p0 (fun e => { e with tcnt := 255#16 }))) (fun t => decide
      (t.el = { Elements.reset Cfg.p0 with ifr := 0b0001#4 })) = true := by decide
/-- T3 and T6 -/
theorem test_tclk_counts :
    gives (exec (.tclk 255#16) (start Cfg.p0 id)) (fun t => decide
      (t.el = { Elements.reset Cfg.p0 with tcnt := 255#16 })) = true ∧
    gives (exec (.tclk 65535#16) (start Cfg.p0 (fun e => { e with tcnt := 10#16 }))) (fun t => decide
      (t.el = { Elements.reset Cfg.p0 with tcnt := 9#16, ifr := 0b0001#4 })) = true := by decide
/-- S1, with TICKF pending, which stays (T7). -/
theorem test_tick_s1 :
    gives (exec .tick (start Cfg.p0 (fun e => { e with sp := 100#16, ifr := 0b0001#4 }))) (fun t => decide
      (t.el = { Elements.reset Cfg.p0 with
        sp := 100#16, ifr := 0b0001#4, duty := 400#16, perr := 100#32, integ := 33600#32, scnt := 1#16, debi := 1#16,
        debd := 1#16 })) = true := by decide
/-- S7, tick 1: negative error, both lower clamps of the output. -/
theorem test_tick_s7 :
    gives (exec .tick (start Cfg.p0 (fun e => { e with raw := 1023#16, adcd := 1023#16 }))) (fun t => decide
      (t.el.duty = 0#16 ∧ t.el.perr = 0xFFFFFC01#32 ∧ t.el.integ = 0xFFFAC150#32)) = true := by decide
/-- S2, S3, S8, S10, S11: the other configurations. -/
theorem test_pid_p1 : pidDuty (start Cfg.p1 (fun e => { e with sp := 100#16 })) = 255#16 := by decide
theorem test_pid_p3 :
    pidDuty (start Cfg.p3 (fun e => { e with sp := 100#16 })) = 400#16 ∧
    pidInteg (start Cfg.p3 (fun e => { e with sp := 100#16 })) = 51200#32 := by decide
theorem test_pid_derivative :
    pidDuty (start Cfg.p2 (fun e => { e with sp := 100#16 })) = 500#16 ∧
    pidDuty (start Cfg.p2 (fun e => { e with
      sp := 100#16, raw := 60#16, perr := 100#32, integ := 100800#32 })) = 101#16 := by decide
theorem test_pid_feed_forward :
    pidDuty (start Cfg.p5 (fun e => { e with sp := 100#16, raw := 40#16 })) = 320#16 := by decide
theorem test_pid_scales :
    pidDuty (start Cfg.p6 (fun e => { e with sp := 100#16 })) = 102#16 ∧
    pidE (start Cfg.p6 (fun e => { e with sp := 10#16 })) = 10 := by decide
/-- S4, tick 50: the anti-windup clamp and the upper clamp of the output. -/
theorem test_pid_clamps :
    pidInteg (start Cfg.p0 (fun e => { e with sp := 1000#16, perr := 1000#32, integ := 16464000#32 })) = 16711680#32 ∧
    pidDuty (start Cfg.p0 (fun e => { e with sp := 1000#16, perr := 1000#32, integ := 16464000#32 })) = 1023#16 := by
  decide
/-- S5, tick 488: the output uses the integral before the reset. -/
theorem test_pid_integral_reset :
    pidDuty (start Cfg.p0 (fun e => { e with
      sp := 100#16, perr := 100#32, integ := 16363200#32, scnt := 487#16 })) = 650#16 ∧
    pidInteg (start Cfg.p0 (fun e => { e with
      sp := 100#16, perr := 100#32, integ := 16363200#32, scnt := 487#16 })) = 0#32 ∧
    pidScnt (start Cfg.p0 (fun e => { e with scnt := 487#16 })) = 0#16 := by decide
/-- S12: the floor of R15. -/
theorem test_pid_floor : pidOut (start Cfg.p0 (fun e => { e with raw := 1#16 })) = -5 := by decide
/-- D15: a saturated counter does not wrap. -/
theorem test_age :
    agedCounter 0 Cfg.p0 254#16 = 255#16 ∧ agedCounter 0 Cfg.p0 255#16 = 255#16 := by decide

/-! ### PWM actuator -/

/-- W1 -/
theorem test_pclk :
    gives (exec (.pclk 10#16) (start Cfg.p0 (fun e => { e with pcnt := 1020#16 }))) (fun t => decide
      (t.el = { Elements.reset Cfg.p0 with pcnt := 6#16 })) = true := by decide
/-- W5 -/
theorem test_pclk_many :
    gives (exec (.pclk 65535#16) (start Cfg.p0 (fun e => { e with pcnt := 5#16 }))) (fun t => decide
      (t.el.pcnt = 4#16 ∧ t.el.ifr = 0#4)) = true := by decide
/-- W2 -/
theorem test_pwm_out :
    pwmOutAfter 399 (start Cfg.p0 (fun e => { e with duty := 400#16 })) = some true ∧
    pwmOutAfter 400 (start Cfg.p0 (fun e => { e with duty := 400#16 })) = some false := by decide

/-- R156, U1: at the period itself the counter is not counted, `STATUS` is not read, and another register is. -/
theorem test_duty_at_period :
    let s := start Cfg.p0 (fun e => { e with duty := 1024#16 })
    isRefused (exec (.pclk 0#16) s) .dutyNotBelowPeriod = true ∧
    isRefused (exec (.rd .status) s) .dutyNotBelowPeriod = true ∧ reads .duty s 0x400#32 = true := by decide

/-! ### Dispatch, host and reset -/

/-- Y1 -/
theorem test_svc :
    gives (exec .svc (start Cfg.p0 (fun e => { e with ifr := 0b0110#4, adcd := 300#16, adcRun := false }))) (fun t =>
      decide (t.el = { Elements.reset Cfg.p0 with raw := 300#16, adcd := 300#16, ifr := 0b0100#4 } ∧
        t.out.adcStart = true)) = true := by decide
/-- Y3: the order of the four handlers. -/
theorem test_svc_priority :
    gives (execAll [.svc, .svc, .svc] (start Cfg.p0 (fun e => { e with
      ifr := 0b1111#4, adcd := 7#16, adcRun := false, debi := 254#16, debd := 254#16 }))) (fun t => decide
      (t.el = { Elements.reset Cfg.p0 with
        ifr := 0b1000#4, raw := 7#16, adcd := 7#16, sp := 10#16, debd := 255#16, scnt := 1#16 })) = true := by decide
/-- Y6 -/
theorem test_rst :
    gives (exec .rst (start Cfg.p0 (fun e => { e with
      sp := 100#16, duty := 400#16, integ := 33600#32, ifr := 0b0101#4, pcnt := 77#16, tcnt := 9#16 }))) (fun t =>
      decide (t.el = Elements.reset Cfg.p0 ∧ t.out = Outputs.afterReset)) = true := by decide
/-- Y7 -/
theorem test_nop :
    gives (exec .nop (start Cfg.p0 (fun e => { e with ifr := 0b1111#4 }))) (fun t => decide
      (t.el = { Elements.reset Cfg.p0 with ifr := 0b1111#4 } ∧ t.out = Outputs.quiet)) = true := by decide
/-- Y4: the state the vector names, and what each index reads. -/
def y4 : State := start Cfg.p0 (fun e => { e with
  raw := 1023#16, adcd := 1023#16, integ := 0xFFFAC150#32, perr := 0xFFFFFC01#32, scnt := 1#16, debi := 1#16, debd := 1#16 })
theorem test_rd :
    (reads .raw y4 0x3FF#32 && reads .sp y4 0#32 && reads .duty y4 0#32 && reads .period y4 0x400#32 &&
      reads .integ y4 0xFFFAC150#32 && reads .perr y4 0xFFFFFC01#32 && reads .scnt y4 1#32 && reads .debi y4 1#32 &&
      reads .debd y4 1#32 && reads .status y4 0x10#32 && reads .adcd y4 0x3FF#32 && reads .tcnt y4 0#32 &&
      reads .pcnt y4 0#32) = true := by decide
/-- Y8; and R61's sign extension of SP, which no reachable state shows. -/
theorem test_rd_status :
    reads .status (start Cfg.p0 (fun e => { e with sp := 100#16, duty := 400#16 })) 0x30#32 = true ∧
    reads .sp (start Cfg.p0 (fun e => { e with sp := 0xFFFF#16 })) 0xFFFFFFFF#32 = true := by decide

/-! ### Pulses of one instant, pseudo-operations, the written form -/

/-- R81: SVC, then the read, then the pulses, then reset. -/
theorem test_instant :
    Inputs.operations {
      rst := true, adcDone := true, adcLo := 0x2C#8, adcHi := 0x01#8, tmrClk := true, incEdge := false, decEdge := true,
      pwmClk := false, rdEn := true, rdAddr := 9#4 } true =
      [.svc, .rd .status, .adcdone 300#16, .tclk 1#16, .decedge, .rst] := by decide
/-- R94 -/
theorem test_pseudo :
    Pseudo.expand Cfg.p0 .periodt = [.tclk 256#16, .svc] ∧ Pseudo.expand Cfg.p0 .pwmcycle = [.pclk 1024#16] ∧
    Pseudo.expand { Cfg.p0 with tmrBits := 16 } .periodt = [.tclk 32768#16, .tclk 32768#16, .svc] ∧
    Pseudo.expand Cfg.p0 (.ticks 3) = [.tick, .tick, .tick] := by decide
/-- R93: its two examples, a hexadecimal operand with a comment, and a mnemonic in lower case. -/
theorem test_trace_text :
    assembleLine "CONV #512".toList = some 0x30000200#32 ∧ assembleLine "RD DUTY".toList = some 0xC2000000#32 ∧
    readLine "ADCDONE #0x2A5 ; a sample".toList = some (.adcdone 0x2A5#16) ∧ readLine "nop".toList = none ∧
    readLine "TCLK #65536".toList = none ∧ readLine "NOP #1".toList = none := by decide

/-! ### Witnesses: a concrete state and operands that meet the hypotheses of each obligation, at boundary values -/

theorem gives_next {o : Host.Outcome State Fault Refusal} {p : State → Bool} (h : gives o p = true) :
    ∃ t, o = .next t ∧ p t = true := by
  cases o with
  | next t => exact ⟨t, rfl, h⟩
  | fault r => exact nomatch h
  | refused r => exact nomatch h

/-- A state satisfying INV with every element away from its reset value and every flag set. -/
def busy : State := { start Cfg.p0 (fun e => { e with
    raw := 1023#16, adcd := 512#16, adcRun := false, sp := 100#16, perr := 0xFFFFFC01#32, integ := 0xFFFAC150#32,
    scnt := 487#16, debi := 254#16, debd := 255#16, duty := 1023#16, pcnt := 1023#16, tcnt := 255#16,
    ifr := 0b1111#4 }) with trace := [0x20000000#32, 0xCF000000#32] }

theorem busy_inv : busy.Inv := by decide

/-- P4, every clause of INV at a bound. -/
def edge : State := start Cfg.p4 (fun e => { e with
  sp := 1000#16, scnt := 3#16, debi := 3#16, debd := 2#16, integ := 16711680#32, perr := 1000#32 })

theorem edge_inv : edge.Inv := by decide

/-- The reset state of P0 with these flags set. -/
def flagged (f : BitVec 4) : State := start Cfg.p0 (fun e => { e with ifr := f, tcnt := 255#16 })

theorem flagged_inv (f : BitVec 4) : (flagged f).Inv := by
  have h : (flagged 0#4).Inv := by decide
  exact h

theorem witness_StepPerformsDecodedOperation :
    busy.trace = 0x20000000#32 :: [0xCF000000#32] ∧ decode busy.cfg 0x20000000#32 = .ok (.adcdone 0#16) := by decide

theorem witness_StepsPerformTheTraceInOrder :
    (∀ i ∈ [Instr.adcdone 0#16], i.wf busy.cfg = true) ∧
      busy.trace = [Instr.adcdone 0#16].map encode ++ [0xCF000000#32] := by decide

theorem witness_IdleStepChangesNothing : edge.cfg.WellFormed ∧ edge.trace = [] := by decide

theorem witness_UndecodedWordIsRefused :
    let s : State := { busy with trace := [0x20000400#32] }
    s.cfg.WellFormed ∧ s.trace = 0x20000400#32 :: [] ∧ decode s.cfg 0x20000400#32 = .error .sampleOutOfRange := by decide

theorem witness_IllFormedConfigIsRefused : ¬ (start { Cfg.p0 with q := 0 } id).cfg.WellFormed := by decide

theorem witness_OutOfRangeSampleIsRefused : busy.cfg.WellFormed ∧ 2 ^ busy.cfg.adcBits ≤ (1024#16).toNat := by decide

theorem witness_ResetSatisfiesInvariant : Cfg.p6.WellFormed := by decide

theorem witness_DecodeAfterEncodeIsIdentity :
    Instr.wf Cfg.p0 (.conv 1023#16) = true ∧ Instr.wf Cfg.p0 (.tclk 65535#16) = true ∧ Instr.wf Cfg.p0 (.rd .r15) = true := by
  decide

theorem witness_EncodeAfterDecodeIsIdentity : decode Cfg.p0 0x300003FF#32 = .ok (.conv 1023#16) := by decide

theorem witness_DecodeAgreesWithOperationTable :
    0x200003FF#32 &&& Opcode.adcdone.maskWord = Opcode.adcdone.matchWord ∧
      ((0x200003FF#32).extractLsb' 0 16).toNat < 2 ^ Cfg.p0.adcBits := by decide

/-- One word for each clause. -/
theorem witness_RefusedWordsFollowTheSixCases :
    (0x00010000#32).extractLsb' 16 8 ≠ 0#8 ∧
    ((0xD0000000#32).extractLsb' 16 8 = 0#8 ∧ 13 ≤ ((0xD0000000#32).extractLsb' 28 4).toNat) ∧
    ((0xB0000001#32).extractLsb' 16 8 = 0#8 ∧ ((0xB0000001#32).extractLsb' 28 4).toNat ∈ [0, 1, 4, 5, 6, 7, 9, 11] ∧
      (0xB0000001#32).extractLsb' 0 28 ≠ 0#28) ∧
    ((0xA1000000#32).extractLsb' 16 8 = 0#8 ∧ ((0xA1000000#32).extractLsb' 28 4).toNat ∈ [2, 3, 8, 10] ∧
      (0xA1000000#32).extractLsb' 24 4 ≠ 0#4) ∧
    ((0xC0000001#32).extractLsb' 16 8 = 0#8 ∧ ((0xC0000001#32).extractLsb' 28 4).toNat = 12 ∧
      (0xC0000001#32).extractLsb' 0 16 ≠ 0#16) ∧
    ((0x20000400#32).extractLsb' 16 8 = 0#8 ∧ ((0x20000400#32).extractLsb' 28 4).toNat ∈ [2, 3] ∧
      (0x20000400#32).extractLsb' 24 4 = 0#4 ∧ 2 ^ Cfg.p0.adcBits ≤ ((0x20000400#32).extractLsb' 0 16).toNat) := by decide

theorem witness_ReservedOpcodesEncodeNothing :
    ((0xD0000000#32).extractLsb' 28 4).toNat ∈ [0xD, 0xE, 0xF] ∧
      ((0xFFFFFFFF#32).extractLsb' 28 4).toNat ∈ [0xD, 0xE, 0xF] := by decide

/-- For every statement whose one hypothesis is a well-formed `CFG`: `NOP`, `RST`, `INCEDGE`, `DECEDGE` and `RD`. -/
theorem witness_NopChangesNothing : busy.cfg.WellFormed := by decide
theorem witness_ResetGivesResetValues : busy.cfg.WellFormed := by decide
theorem witness_IncedgeSetsIncfOnly : busy.cfg.WellFormed := by decide
theorem witness_DecedgeSetsDecfOnly : busy.cfg.WellFormed := by decide

theorem witness_AdcdoneLatchesSampleAndSetsConvf :
    busy.cfg.WellFormed ∧ (1023#16).toNat < 2 ^ busy.cfg.adcBits ∧ (0#16).toNat < 2 ^ busy.cfg.adcBits := by decide
theorem witness_ConvStoresSampleAndRearms :
    busy.cfg.WellFormed ∧ (1023#16).toNat < 2 ^ busy.cfg.adcBits ∧ (0#16).toNat < 2 ^ busy.cfg.adcBits := by decide

/-- Accepted at both bounds (D11), and rejected one step above the range. -/
theorem witness_IncAdjustsOrRejects :
    (let s := start Cfg.p0 (fun e => { e with sp := 990#16, debi := 100#16 })
     s.cfg.WellFormed ∧ s.cfg.debThresh ≤ s.el.debi.toNat ∧ s.el.sp.toInt + s.cfg.spStep ≤ s.cfg.spMax) ∧
    (let s := start Cfg.p0 (fun e => { e with sp := 991#16, debi := 100#16 })
     s.cfg.WellFormed ∧ ¬ (s.cfg.debThresh ≤ s.el.debi.toNat ∧ s.el.sp.toInt + s.cfg.spStep ≤ s.cfg.spMax)) := by decide

/-- Accepted at both bounds (D12), and rejected one tick too early. -/
theorem witness_DecAdjustsOrRejects :
    (let s := start Cfg.p0 (fun e => { e with sp := 10#16, debd := 100#16 })
     s.cfg.WellFormed ∧ s.cfg.debThresh ≤ s.el.debd.toNat ∧ 0 ≤ s.el.sp.toInt - s.cfg.spStep) ∧
    (let s := start Cfg.p0 (fun e => { e with sp := 10#16, debd := 99#16 })
     s.cfg.WellFormed ∧ ¬ (s.cfg.debThresh ≤ s.el.debd.toNat ∧ 0 ≤ s.el.sp.toInt - s.cfg.spStep)) := by decide

/-- No wrap at the last count below it, a wrap one count later. -/
theorem witness_TclkCountsAndSetsTickf :
    busy.cfg.WellFormed ∧ busy.el.tcnt.toNat < 2 ^ busy.cfg.tmrBits ∧
    ¬ 2 ^ busy.cfg.tmrBits ≤ busy.el.tcnt.toNat + (0#16).toNat ∧
    2 ^ busy.cfg.tmrBits ≤ busy.el.tcnt.toNat + (1#16).toNat := by decide

theorem witness_PclkCountsModuloPeriod :
    busy.cfg.WellFormed ∧ busy.el.duty < busy.el.period ∧ busy.el.pcnt.toNat < busy.el.period.toNat := by decide

/-- At the integral reset (`busy`, `edge`) and away from it. -/
theorem witness_TickAgesAndRunsControlLaw :
    (busy.Inv ∧ pidCnt busy = busy.cfg.resetCycles) ∧
      (flagged 0#4).Inv ∧ pidCnt (flagged 0#4) ≠ (flagged 0#4).cfg.resetCycles :=
  ⟨⟨busy_inv, by decide⟩, flagged_inv _, by decide⟩

/-- One state for each case. -/
theorem witness_SvcServesHighestPriorityEvent :
    (flagged 0b1111#4).Inv ∧ (flagged 0b1110#4).Inv ∧ (flagged 0b1100#4).Inv ∧ (flagged 0b1000#4).Inv ∧ (flagged 0#4).Inv :=
  ⟨flagged_inv _, flagged_inv _, flagged_inv _, flagged_inv _, flagged_inv _⟩

/-- The compare value one below the period, and equal to it. -/
theorem witness_ActuatorIsStatedOnlyBelowPeriod :
    (busy.cfg.WellFormed ∧ busy.el.duty.toNat + 1 = busy.el.period.toNat ∧ busy.el.duty < busy.el.period) ∧
    (let s := start Cfg.p0 (fun e => { e with duty := 1024#16 })
     s.cfg.WellFormed ∧ s.el.duty = s.el.period ∧ ¬ s.el.duty < s.el.period) := by decide

/-- `STATUS` with the counter below and at the compare value, and another register at the period. -/
theorem witness_RdReadsRegisterSpace :
    (let s := start Cfg.p0 (fun e => { e with duty := 1024#16 })
     s.cfg.WellFormed ∧ (Reg.duty = .status → s.el.duty < s.el.period)) ∧
    busy.cfg.WellFormed ∧ busy.el.duty < busy.el.period ∧ ¬ busy.el.pcnt < busy.el.duty ∧
    (start Cfg.p0 (fun e => { e with duty := 1#16 })).el.pcnt < 1#16 := by decide

theorem witness_FdivIsFloor : (0 : Int) < 1 ∧ fdiv (-262480) 65536 = -5 := by decide
theorem witness_RoundingDirectionIsInvisible : (0 : Int) < 65536 ∧ (0 : Int) ≤ 0 := by decide
theorem witness_PidIntermediatesStayInTheirRanges : busy.Inv ∧ edge.Inv := ⟨busy_inv, edge_inv⟩

theorem witness_InvariantKeptByEveryStep : busy.Inv ∧ ∃ t, step busy = .next t :=
  ⟨busy_inv, (gives_next (p := fun _ => true) (by decide)).imp fun _ h => h.1⟩

theorem witness_EveryOperationCompletes : busy.Inv ∧ Instr.wf busy.cfg (.adcdone 1023#16) = true :=
  ⟨busy_inv, by decide⟩

theorem witness_ConfigurationNeverChanges : ∃ t, step busy = .next t := witness_InvariantKeptByEveryStep.2

theorem witness_SetpointStaysMultipleOfStep :
    busy.Inv ∧ (busy.cfg.spStep : Int) ∣ busy.el.sp.toInt ∧ ∃ t, step busy = .next t :=
  ⟨busy_inv, by decide, witness_InvariantKeptByEveryStep.2⟩

/-- For each element an operation, not `RST`, that changes it. -/
theorem witness_OnlyTheListedWritersChangeAnElement :
    gives (exec (.conv 1#16) busy) (fun t => decide
      (t.el.raw ≠ busy.el.raw ∧ t.el.adcd ≠ busy.el.adcd ∧ t.el.adcRun ≠ busy.el.adcRun)) = true ∧
    gives (exec .inc busy) (fun t => decide (t.el.sp ≠ busy.el.sp ∧ t.el.debi ≠ busy.el.debi)) = true ∧
    gives (exec .dec busy) (fun t => decide (t.el.sp ≠ busy.el.sp ∧ t.el.debd ≠ busy.el.debd)) = true ∧
    gives (exec .tick busy) (fun t => decide
      (t.el.perr ≠ busy.el.perr ∧ t.el.integ ≠ busy.el.integ ∧ t.el.scnt ≠ busy.el.scnt ∧ t.el.debi ≠ busy.el.debi ∧
        t.el.duty ≠ busy.el.duty)) = true ∧
    gives (exec (.pclk 1#16) busy) (fun t => decide (t.el.pcnt ≠ busy.el.pcnt)) = true ∧
    gives (exec (.tclk 1#16) busy) (fun t => decide (t.el.tcnt ≠ busy.el.tcnt)) = true ∧
    gives (exec .svc busy) (fun t => decide (t.el.ifr ≠ busy.el.ifr)) = true := by decide

/-- Two states that agree in the six inputs and in nothing else. -/
def other : State := { busy with
  el := { busy.el with adcd := 0#16, adcRun := true, debi := 0#16, debd := 0#16, duty := 0#16, pcnt := 0#16, tcnt := 0#16,
                       ifr := 0#4 }
  ops := 7 }

theorem witness_PidDependsOnItsSixInputsOnly :
    busy.Inv ∧ other.Inv ∧ (busy.cfg = other.cfg ∧ busy.el.sp = other.el.sp ∧ busy.el.raw = other.el.raw ∧
      busy.el.perr = other.el.perr ∧ busy.el.integ = other.el.integ ∧ busy.el.scnt = other.el.scnt ∧
      busy.el.period = other.el.period) ∧
    (∃ t, exec .tick busy = .next t) ∧ ∃ t, exec .tick other = .next t :=
  ⟨busy_inv, by decide, by decide, (gives_next (p := fun _ => true) (by decide)).imp fun _ h => h.1,
    (gives_next (p := fun _ => true) (by decide)).imp fun _ h => h.1⟩

theorem witness_DutyIsClampedForEveryInput :
    Cfg.p0.WellFormed ∧ 1 ≤ (start Cfg.p0 (fun e => { e with period := 1#16, sp := 0x8000#16 })).el.period.toNat := by decide

theorem witness_SampleCounterCountsInvocations :
    ((start Cfg.p4 id).cfg.WellFormed ∧ (start Cfg.p4 id).el = Elements.reset (start Cfg.p4 id).cfg ∧
      Instr.rst ∉ [Instr.tick, .tick, .tick, .tick]) ∧
    ∃ t, execAll [.tick, .tick, .tick, .tick] (start Cfg.p4 id) = .next t ∧ decide (t.el.scnt = 0#16) = true :=
  ⟨by decide, gives_next (by decide)⟩

/-- S6: at the reset boundary and before it. -/
def s6 (n : BitVec 16) : State :=
  start Cfg.p0 (fun e => { e with sp := 100#16, raw := 100#16, adcd := 100#16, integ := 6553600#32, scnt := n, duty := 100#16 })

theorem s6_inv_485 : (s6 485#16).Inv := by decide
theorem s6_inv_487 : (s6 487#16).Inv := by decide

theorem witness_SteadyStateOutputIsIntegralTerm :
    ((s6 485#16).Inv ∧ (s6 487#16).Inv) ∧
    ((s6 485#16).el.raw.toNat : Int) = pidSpS (s6 485#16) ∧ ((s6 487#16).el.raw.toNat : Int) = pidSpS (s6 487#16) ∧
    (s6 485#16).el.perr.toInt = 0 ∧ (s6 487#16).el.perr.toInt = 0 ∧ Cfg.p0.ffCoef = 0 ∧ Cfg.p0.ffBias = 0 :=
  ⟨⟨s6_inv_485, s6_inv_487⟩, by decide⟩

theorem witness_ConverterIsOffWhileSetpointIsZero :
    let s := start Cfg.p0 (fun e => { e with raw := 1023#16, integ := 0xFFFAC150#32 })
    s.Inv ∧ (0 ≤ s.cfg.kpCoef ∧ 0 ≤ s.cfg.kiCoef ∧ s.cfg.kdCoef = 0 ∧ s.cfg.ffCoef = 0 ∧ s.cfg.ffBias = 0 ∧
      s.el.sp.toInt = 0 ∧ s.el.integ.toInt ≤ 0 ∧ s.el.duty.toNat = 0) ∧
    ∃ t, exec .tick s = .next t ∧ decide (t.el.sp.toInt = 0) = true :=
  ⟨by decide, by decide, gives_next (by decide)⟩

theorem witness_RepetitionCountIsRepetition : busy.Inv := busy_inv
theorem witness_PwmConductsDutyCountsPerPeriod : busy.Inv ∧ (flagged 0#4).Inv := ⟨busy_inv, flagged_inv _⟩

/-- One state for each clause; the last with one wrap at both ends of its range. -/
theorem witness_EventThenServiceIsDirectHandler :
    ((flagged 0b1100#4).Inv ∧ (flagged 0b1000#4).Inv ∧ (flagged 0#4).Inv ∧ (flagged 0b1110#4).Inv) ∧
    (1023#16).toNat < 2 ^ Cfg.p0.adcBits ∧ (flagged 0b1100#4).el.ifr &&& 0b0011#4 = 0#4 ∧
    (flagged 0b1000#4).el.ifr &&& 0b0111#4 = 0#4 ∧ (flagged 0b1110#4).el.ifr &&& 0b0001#4 = 0#4 ∧
    2 ^ Cfg.p0.tmrBits ≤ (flagged 0b1110#4).el.tcnt.toNat + (1#16).toNat ∧
    (flagged 0b1110#4).el.tcnt.toNat + (256#16).toNat < 2 * 2 ^ Cfg.p0.tmrBits :=
  ⟨⟨flagged_inv _, flagged_inv _, flagged_inv _, flagged_inv _⟩, by decide⟩

theorem witness_RepeatedEventsCoalesce :
    busy.cfg.WellFormed ∧ (100#16).toNat < 2 ^ busy.cfg.adcBits ∧ (1023#16).toNat < 2 ^ busy.cfg.adcBits ∧
      busy.el.ifr.getLsbD 0 = true := by decide

theorem witness_SecondSampleReplacesFirst :
    edge.cfg.WellFormed ∧ (100#16).toNat < 2 ^ edge.cfg.adcBits ∧ (1023#16).toNat < 2 ^ edge.cfg.adcBits ∧
      edge.el.ifr &&& 0b0001#4 = 0#4 := by decide

theorem witness_DrainServesEverythingPending : busy.Inv ∧ busy.el.ifr = 0b1111#4 := ⟨busy_inv, by decide⟩

/-- `TICKF` clear and set before, and sixteen bits. -/
theorem witness_PeriodtWrapsOnceAndServesTick :
    (edge.Inv ∧ edge.el.ifr &&& 0b0001#4 = 0#4) ∧ (busy.Inv ∧ busy.el.ifr &&& 0b0001#4 ≠ 0#4) ∧
    (start { Cfg.p0 with tmrBits := 16 } (fun e => { e with tcnt := 65535#16 })).Inv :=
  ⟨⟨edge_inv, by decide⟩, ⟨busy_inv, by decide⟩, by decide⟩

theorem witness_PulsesOfOneInstantCommute :
    busy.Inv ∧ isPulse (.adcdone 1023#16) = true ∧ isPulse (.tclk 1#16) = true ∧
      (Instr.adcdone 1023#16).opcode ≠ (Instr.tclk 1#16).opcode ∧ Instr.wf busy.cfg (.adcdone 1023#16) = true ∧
      Instr.wf busy.cfg (.tclk 1#16) = true :=
  ⟨busy_inv, by decide⟩

/-- Every pulse at once, with and without reset. -/
def allPulses (rst : Bool) : Inputs where
  rst := rst
  adcDone := true
  adcLo := 0xFF#8
  adcHi := 0x03#8
  tmrClk := true
  incEdge := true
  decEdge := true
  pwmClk := true
  rdEn := true
  rdAddr := 9#4

/-- The timer of `busy` is at its last state, and a tick is served in the same instant. -/
theorem witness_EventInTheInstantOfServiceIsNotLost :
    busy.el.tcnt.toNat = 2 ^ busy.cfg.tmrBits - 1 ∧ handlerRun .svc busy = some .tick ∧
    (∃ t, execAll ((allPulses true).operations true) busy = .next t ∧ decide (t.el = Elements.reset Cfg.p0) = true) ∧
    ∃ t, execAll ((allPulses false).operations true) busy = .next t ∧ decide (t.el.ifr = 0b1111#4) = true :=
  ⟨by decide, by decide, gives_next (by decide), gives_next (by decide)⟩

theorem witness_NoSampleIsOverwrittenUnderEa1 :
    let l := [Instr.adcdone 5#16, .incedge, .svc, .adcdone 6#16]
    (start Cfg.p0 id).cfg.WellFormed ∧ (start Cfg.p0 id).el = Elements.reset (start Cfg.p0 id).cfg ∧
      (∀ i ∈ l, isEventLayer i = true) ∧ holdsAlong ea1Holds l (start Cfg.p0 id) = true := by decide

theorem witness_NoControlPeriodIsLostUnderEa2 :
    let l := [Instr.tclk 256#16, .adcdone 6#16, .svc, .tclk 511#16]
    edge.Inv ∧ ((∀ i ∈ l, isEventLayer i = true ∧ i ≠ .rst) ∧ holdsAlong ea2Holds l edge = true) ∧
      ∃ t, execAll l edge = .next t ∧ decide (t.el.ifr = 0b0011#4) = true :=
  ⟨edge_inv, by decide, gives_next (by decide)⟩

/-- Four ticks, a threshold of three, two acceptances: the bound is reached. -/
theorem witness_AcceptancesAreBoundedByTicks :
    let s := start Cfg.p4 (fun e => { e with debi := 3#16 })
    let l := [Instr.inc, .tick, .inc, .tick, .tick, .inc, .tick]
    1 ≤ s.cfg.debThresh ∧ sumAlong incAcceptances l s = 2 ∧ sumAlong tickRuns l s = 4 := by decide

theorem witness_NoAdjustmentBeforeThresholdTicks :
    let l := [Instr.tick, .inc, .tick, .inc]
    ((start Cfg.p4 id).el = Elements.reset (start Cfg.p4 id).cfg ∧
      sumAlong tickRuns l (start Cfg.p4 id) < (start Cfg.p4 id).cfg.debThresh) ∧
      ∃ t, execAll l (start Cfg.p4 id) = .next t ∧ decide (t.el.debi = 2#16) = true :=
  ⟨by decide, gives_next (by decide)⟩

theorem witness_HostReadsDoNotAffectTheRun :
    busy.Inv ∧ ({ busy with ops := 3 } : State).cfg = busy.cfg ∧ ({ busy with ops := 3 } : State).el = busy.el ∧
      ∀ i ∈ [Instr.rd .r13, .svc, .nop, .conv 1023#16], i.wf busy.cfg = true :=
  ⟨busy_inv, rfl, rfl, by decide⟩

end Sys2Proof.Tests
end

section
/-! SUPPORT. Proofs of the family of the encoding: the reserved operation codes (R89), and the repetition count of `TCLK`
and `PCLK` (R86). -/

namespace Sys2Proof

/-! ### Reserved operation codes -/

/-- Case 1 of R88. -/
theorem decode_of_zeroField_ne (c : Cfg) {w : Word} (h : zeroField w ≠ 0#8) :
    decode c w = .error .zeroFieldNotZero := if_pos h

/-- Case 2 of R88, which is tested after case 1. -/
theorem decode_of_opcode_none (c : Cfg) {w : Word} (hz : zeroField w = 0#8)
    (ho : Opcode.ofBits (opcField w) = none) : decode c w = .error .reservedOpcode := by
  simp only [decode, hz, ho, ne_eq, not_true_eq_false, ↓reduceIte]

/-- Settles O14: the word is refused by case 1 or, with its ZERO field 0, by case 2 of R88. -/
theorem reservedOpcodesEncodeNothing : Obligations.ReservedOpcodesEncodeNothing := by
  intro c w h
  have reserved : 13 ≤ (opcField w).toNat := by
    simp only [List.mem_cons, List.not_mem_nil, or_false] at h
    unfold opcField
    omega
  by_cases hz : zeroField w = 0#8
  · exact ⟨_, decode_of_opcode_none c hz ((opcode_ofBits_none_iff _).mpr reserved)⟩
  · exact ⟨_, decode_of_zeroField_ne c hz⟩

end Sys2Proof

namespace Sys2Proof.Machine

/-! ### A repeated operation -/

/-- An operation repeated from a state with the elements `F 0`, where each repetition takes `F j` to `F (j + 1)`, completes
and leaves `F n`. -/
theorem execAll_replicate {i : Instr} {c : Cfg} (n : Nat) : ∀ {F : Nat → Elements} {s : State},
    (∀ (j : Nat) (t : State), t.cfg = c → t.el = F j → ∃ u, exec i t = .next u ∧ u.el = F (j + 1)) →
      s.cfg = c → s.el = F 0 → ∃ t, execAll (List.replicate n i) s = .next t ∧ t.el = F n := by
  induction n with
  | zero => exact fun {_ s} _ _ he => ⟨s, rfl, he⟩
  | succ n ih =>
    intro F s hstep hc he
    obtain ⟨t, ht, hte⟩ := hstep 0 s hc he
    obtain ⟨u, hu, hue⟩ := ih (F := fun j => F (j + 1)) (fun j => hstep (j + 1)) ((exec_cfg ht).trans hc) hte
    exact ⟨u, (execAll_cons_next ht).trans hu, hue⟩

/-- A value that fits is stored as it is (R13). -/
theorem storeU16_eq_ofNat {k v : Nat} (h : v < 2 ^ 16) : storeU16 k v = BitVec.ofNat 16 v := if_pos h

/-! ### Counts of the control-period timer -/

/-- An event that happens in two stretches sets its flag once (R183). -/
theorem setFlagIf_setFlagIf (a b : Bool) (f : BitVec 4) (ev : Event) :
    setFlagIf b (setFlagIf a f ev) ev = setFlagIf (a || b) f ev := by
  cases b with
  | false => rw [Bool.or_false, setFlagIf_false]
  | true =>
    rw [Bool.or_true, setFlagIf_true, setFlagIf_true]
    cases a with
    | false => rfl
    | true => exact setFlag_idem f ev

/-- The elements after `k` counts of the timer (R160, R161), without the number of the operation that counts. -/
def Elements.afterTimerCounts (c : Cfg) (e : Elements) (k : Nat) : Elements :=
  { e with
    tcnt := BitVec.ofNat 16 (countUp (2 ^ c.tmrBits) e.tcnt.toNat k)
    ifr := setFlagIf (countWraps (2 ^ c.tmrBits) e.tcnt.toNat k) e.ifr .tick }

section
variable {c : Cfg} {e : Elements} (hc : c.WellFormed) (ht : e.tcnt.toNat < 2 ^ c.tmrBits)
include hc ht

theorem afterTimerCounts_tcnt (k : Nat) :
    (e.afterTimerCounts c k).tcnt.toNat = countUp (2 ^ c.tmrBits) e.tcnt.toNat k := by
  have hw := Cfg.two_pow_tmrBits_le hc
  have hlt := countUp_lt (n := k) ht
  exact Nat.mod_eq_of_lt (by omega)

theorem afterTimerCounts_add (a b : Nat) :
    (e.afterTimerCounts c a).afterTimerCounts c b = e.afterTimerCounts c (a + b) := by
  rw [Elements.afterTimerCounts, afterTimerCounts_tcnt hc ht, countUp_add ht]
  simp only [Elements.afterTimerCounts, setFlagIf_setFlagIf, countWraps_add ht]

omit hc in
theorem afterTimerCounts_zero : e.afterTimerCounts c 0 = e := by
  have hw : countWraps (2 ^ c.tmrBits) e.tcnt.toNat 0 = false := by
    rw [countWraps_eq ht, decide_eq_false_iff_not]; omega
  simp [Elements.afterTimerCounts, countUp_zero ht, hw]

end

/-- `TCLK n` completes and counts `n` times (R161). -/
theorem exec_tclk {s : State} (hc : s.cfg.WellFormed) (ht : s.el.tcnt.toNat < 2 ^ s.cfg.tmrBits) (n : Imm) :
    ∃ t, exec (.tclk n) s = .next t ∧ t.el = s.el.afterTimerCounts s.cfg n.toNat := by
  have hw := Cfg.two_pow_tmrBits_le hc
  have hlt := countUp_lt (n := n.toNat) ht
  refine ⟨_, exec_next hc rfl, ?_⟩
  simp only [effectOf, timerCount, startOp_cfg, startOp_el, Elements.afterTimerCounts]
  rw [storeU16_eq_ofNat (by omega)]

/-- `TCLK 1` repeated `n` times counts `n` times (R86). -/
theorem execAll_replicate_tclk {s : State} (h : s.Inv) (n : Nat) :
    ∃ t, execAll (List.replicate n (.tclk 1#16)) s = .next t ∧ t.el = s.el.afterTimerCounts s.cfg n := by
  have hc := Inv_cfg h
  have ht := Inv_tcnt h
  refine execAll_replicate n (F := s.el.afterTimerCounts s.cfg) ?_ rfl (afterTimerCounts_zero ht).symm
  intro j t hcfg hel
  have htj : t.el.tcnt.toNat < 2 ^ t.cfg.tmrBits := by
    rw [hel, hcfg, afterTimerCounts_tcnt hc ht]; exact countUp_lt ht
  obtain ⟨u, hu, hue⟩ := exec_tclk (hcfg ▸ hc) htj 1#16
  refine ⟨u, hu, ?_⟩
  rw [hue, hel, hcfg]
  exact afterTimerCounts_add hc ht j 1

/-! ### Counts of the PWM counter -/

/-- The elements after `k` counts of the PWM counter (R151, R152), without the number of the operation that counts. -/
def Elements.afterPwmCounts (e : Elements) (k : Nat) : Elements :=
  { e with pcnt := BitVec.ofNat 16 (countUp e.period.toNat e.pcnt.toNat k) }

section
variable {e : Elements} (hp : e.pcnt.toNat < e.period.toNat)
include hp

theorem afterPwmCounts_pcnt (k : Nat) :
    (e.afterPwmCounts k).pcnt.toNat = countUp e.period.toNat e.pcnt.toNat k := by
  have hw := e.period.isLt
  have hlt := countUp_lt (n := k) hp
  exact Nat.mod_eq_of_lt (by omega)

theorem afterPwmCounts_add (a b : Nat) : (e.afterPwmCounts a).afterPwmCounts b = e.afterPwmCounts (a + b) := by
  rw [Elements.afterPwmCounts, afterPwmCounts_pcnt hp]
  simp only [Elements.afterPwmCounts, countUp_add hp]

theorem afterPwmCounts_zero : e.afterPwmCounts 0 = e := by
  simp [Elements.afterPwmCounts, countUp_zero hp]

end

/-- `PCLK n` completes where `DUTY < PERIOD` and counts `n` times (R152, R156). -/
theorem exec_pclk {s : State} (hc : s.cfg.WellFormed) (hd : s.el.duty.toNat < s.el.period.toNat)
    (hp : s.el.pcnt.toNat < s.el.period.toNat) (n : Imm) :
    ∃ t, exec (.pclk n) s = .next t ∧ t.el = s.el.afterPwmCounts n.toNat := by
  have hw := s.el.period.isLt
  have hlt := countUp_lt (n := n.toNat) hp
  refine ⟨_, exec_next hc (actuatorStated_iff.mpr hd), ?_⟩
  simp only [effectOf, pwmCount_el, startOp_el, Elements.afterPwmCounts]
  rw [storeU16_eq_ofNat (by omega)]

/-- `PCLK 1` repeated `n` times counts `n` times (R86): no count touches `DUTY` or `PERIOD`, so each one is stated. -/
theorem execAll_replicate_pclk {s : State} (h : s.Inv) (n : Nat) :
    ∃ t, execAll (List.replicate n (.pclk 1#16)) s = .next t ∧ t.el = s.el.afterPwmCounts n := by
  have hp := Inv_pcnt h
  refine execAll_replicate n (F := s.el.afterPwmCounts) ?_ rfl (afterPwmCounts_zero hp).symm
  intro j t hcfg hel
  have hdj : t.el.duty.toNat < t.el.period.toNat := by rw [hel]; exact Inv_duty h
  have hpj : t.el.pcnt.toNat < t.el.period.toNat := by
    rw [hel, afterPwmCounts_pcnt hp]; exact countUp_lt hp
  obtain ⟨u, hu, hue⟩ := exec_pclk (hcfg ▸ Inv_cfg h) hdj hpj 1#16
  refine ⟨u, hu, ?_⟩
  rw [hue, hel]
  exact afterPwmCounts_add hp j 1

/-- Settles O43: both sides leave the elements after `n` counts, since counts add up. -/
theorem repetitionCountIsRepetition : Obligations.RepetitionCountIsRepetition := by
  intro s n h
  constructor
  · obtain ⟨t, ht, hte⟩ := exec_tclk (Inv_cfg h) (Inv_tcnt h) n
    obtain ⟨u, hu, hue⟩ := execAll_replicate_tclk h n.toNat
    exact ⟨t, u, ht, hu, hue.trans hte.symm⟩
  · obtain ⟨t, ht, hte⟩ := exec_pclk (Inv_cfg h) (Inv_duty h) (Inv_pcnt h) n
    obtain ⟨u, hu, hue⟩ := execAll_replicate_pclk h n.toNat
    exact ⟨t, u, ht, hu, hue.trans hte.symm⟩

end Sys2Proof.Machine
end

section
/-! SUPPORT. Proofs of the family of the feedback sampler: `ADCDONE d` (R111), and `CONV d` through H_CONV (R112, R113). -/

namespace Sys2Proof

/-- The word of a legal operation decodes to it (R88, case 7). -/
theorem decode_encode_of_legal {c : Cfg} {i : Instr} (legal : Laws.EncodedWordIsLegal.Statement i)
    (hw : i.wf c = true) : decode c (encode i) = .ok i := by
  obtain ⟨opc, zero, format⟩ := legal
  obtain ⟨-, reg, -, imm⟩ := encode_fields i
  exact decode_eq_ok.mpr ⟨zero, i.opcode, opc, format, by rw [imm, reg, operation_of_fields], hw⟩

/-- A sample in range is one the converter can produce (R8, R85). -/
theorem sampleOk_of_lt {c : Cfg} {d : Imm} (hd : d.toNat < 2 ^ c.adcBits) : c.sampleOk d = true :=
  decide_eq_true hd

theorem encode_adcdone (d : Imm) : encode (.adcdone d) = 0x2000#16 ++ d := by
  have upper : 0x2#4 ++ 0#4 ++ 0#8 = 0x2000#16 := by decide
  exact congrArg (· ++ d) upper

theorem encode_conv (d : Imm) : encode (.conv d) = 0x3000#16 ++ d := by
  have upper : 0x3#4 ++ 0#4 ++ 0#8 = 0x3000#16 := by decide
  exact congrArg (· ++ d) upper

end Sys2Proof

namespace Sys2Proof.Machine

/-- H_CONV run on a sample just latched stores that sample whole: its two parts recombine (R63, R112). -/
theorem hConv_latchSample_el {s : State} {d : Imm} (hc : s.cfg.WellFormed) (hd : d.toNat < 2 ^ s.cfg.adcBits) :
    (hConv (s.latchSample d)).el = { s.el with adcd := d, raw := d, adcRun := true } := by
  have parts : combineParts s.cfg d = d := combineParts_eq (Cfg.adcBits_ge hc) hd
  rw [hConv_el, latchSample_cfg, latchSample_el, parts]

/-- Settles O19: H_CONV reads the sample that `CONV` has just latched. -/
theorem convStoresSampleAndRearms : Obligations.ConvStoresSampleAndRearms := by
  intro s d hc hd
  have ok : s.cfg.sampleOk d = true := sampleOk_of_lt hd
  have completes : exec (.conv d) s = .next (effectOf (.conv d) s.startOp) := exec_next hc ok
  refine ⟨?_, _, completes, ?_, rfl, exec_cfg completes, exec_trace completes⟩
  · rw [← encode_conv]
    exact decode_encode_of_legal (Laws.EncodedWordIsLegal.conv d) ok
  · exact hConv_latchSample_el (s := s.startOp) hc hd

/-- Settles O18: the conversion-complete event writes the latch, the request and `CONVF`, and `RAW` waits for the handler. -/
theorem adcdoneLatchesSampleAndSetsConvf : Obligations.AdcdoneLatchesSampleAndSetsConvf := by
  intro s d hc hd
  have ok : s.cfg.sampleOk d = true := sampleOk_of_lt hd
  have completes : exec (.adcdone d) s = .next (effectOf (.adcdone d) s.startOp) := exec_next hc ok
  refine ⟨?_, _, completes, ?_, rfl, exec_cfg completes, exec_trace completes⟩
  · rw [← encode_adcdone]
    exact decode_encode_of_legal (Laws.EncodedWordIsLegal.adcdone d) ok
  · exact conversionDone_el s.startOp d

end Sys2Proof.Machine
end

section
/-! SUPPORT. Proofs of the family of the setpoint store: the edge events (R123, R124), and the adjustments H_INC and H_DEC
with the operations that run them (R121, R122, R125, R126). -/

namespace Sys2Proof

/-- Format N has no operand, so the word of such an operation is the match word of its row (R83, R84). -/
theorem encode_eq_matchWord {i : Instr} (noOperand : i.opcode.format = .n) : encode i = i.opcode.matchWord := by
  cases i with
  | adcdone d => exact nomatch noOperand
  | conv d => exact nomatch noOperand
  | tclk n => exact nomatch noOperand
  | pclk n => exact nomatch noOperand
  | rd reg => exact nomatch noOperand
  | _ => rfl

end Sys2Proof

namespace Sys2Proof.Machine

/-- An operation without operands whose effect leaves the outputs quiet: its match word decodes to it, and it completes with
what holds of its effect (R14, R18, R83). -/
theorem decode_and_exec_of_formatN (i : Instr) {s : State} {P : State → Prop}
    (legal : Laws.EncodedWordIsLegal.Statement i) (noOperand : i.opcode.format = .n) (hc : s.cfg.WellFormed)
    (hi : stated i s = true) (quiet : (effectOf i s.startOp).out = s.startOp.out) (effect : P (effectOf i s.startOp)) :
    decode s.cfg i.opcode.matchWord = .ok i ∧
      ∃ t, exec i s = .next t ∧ P t ∧ t.out = ⟨false, none⟩ ∧ t.cfg = s.cfg ∧ t.trace = s.trace := by
  have completes : exec i s = .next (effectOf i s.startOp) := exec_next hc hi
  refine ⟨?_, _, completes, effect, quiet, exec_cfg completes, exec_trace completes⟩
  rw [← encode_eq_matchWord noOperand]
  exact decode_encode_of_legal legal (wf_of_stated hi)

/-! ### Adjustments of the setpoint -/

theorem incAccepted_iff {s : State} : incAccepted s = true ↔
    s.cfg.debThresh ≤ s.el.debi.toNat ∧ s.el.sp.toInt + s.cfg.spStep ≤ s.cfg.spMax := decide_eq_true_iff

theorem decAccepted_iff {s : State} : decAccepted s = true ↔
    s.cfg.debThresh ≤ s.el.debd.toNat ∧ 0 ≤ s.el.sp.toInt - s.cfg.spStep := decide_eq_true_iff

/-- An accepted H_INC stores the raised setpoint whole: `SP_MAX` is below the signed 16-bit bound (R10, R121). -/
theorem hInc_accepted {s : State} (hc : s.cfg.WellFormed) (h : incAccepted s = true) :
    (hInc s).el.sp.toInt = s.el.sp.toInt + s.cfg.spStep ∧
      (hInc s).el = { s.el with sp := (hInc s).el.sp, debi := 0#16 } := by
  obtain ⟨-, belowMax⟩ := incAccepted_iff.mp h
  have spMax_le := Cfg.spMax_le hc
  have sp_ge := BitVec.le_toInt s.el.sp
  rw [hInc_el, if_pos h]
  exact ⟨storeS16_fits (by omega) (by omega), rfl⟩

/-- An accepted H_DEC stores the lowered setpoint whole: it is not negative, and below a setpoint that fits (R122). -/
theorem hDec_accepted {s : State} (h : decAccepted s = true) :
    (hDec s).el.sp.toInt = s.el.sp.toInt - s.cfg.spStep ∧
      (hDec s).el = { s.el with sp := (hDec s).el.sp, debd := 0#16 } := by
  obtain ⟨-, notNegative⟩ := decAccepted_iff.mp h
  have sp_lt := BitVec.toInt_lt (x := s.el.sp)
  rw [hDec_el, if_pos h]
  exact ⟨storeS16_fits (by omega) (by omega), rfl⟩

theorem hInc_rejected {s : State} (h : ¬ incAccepted s = true) : (hInc s).el = s.el := by
  rw [hInc_el, if_neg h]

theorem hDec_rejected {s : State} (h : ¬ decAccepted s = true) : (hDec s).el = s.el := by
  rw [hDec_el, if_neg h]

/-- Settles O22: `INC` is H_INC, accepted or rejected. -/
theorem incAdjustsOrRejects : Obligations.IncAdjustsOrRejects := by
  intro s hc
  refine decode_and_exec_of_formatN .inc Laws.EncodedWordIsLegal.inc rfl hc rfl (hInc_out _) ?_
  split
  case isTrue accepted => exact hInc_accepted (s := s.startOp) hc (incAccepted_iff.mpr accepted)
  case isFalse rejected => exact hInc_rejected (s := s.startOp) (mt incAccepted_iff.mp rejected)

/-- Settles O23: `DEC` is H_DEC, accepted or rejected. -/
theorem decAdjustsOrRejects : Obligations.DecAdjustsOrRejects := by
  intro s hc
  refine decode_and_exec_of_formatN .dec Laws.EncodedWordIsLegal.dec rfl hc rfl (hDec_out _) ?_
  split
  case isTrue accepted => exact hDec_accepted (s := s.startOp) (decAccepted_iff.mpr accepted)
  case isFalse rejected => exact hDec_rejected (s := s.startOp) (mt decAccepted_iff.mp rejected)

/-! ### Edge events -/

/-- Settles O20: the event raises its own flag, `IFR[2]`. -/
theorem incedgeSetsIncfOnly : Obligations.IncedgeSetsIncfOnly := by
  intro s hc
  exact decode_and_exec_of_formatN .incedge Laws.EncodedWordIsLegal.incedge rfl hc rfl (raiseEvent_out _ .inc)
    (raiseEvent_el s.startOp .inc)

/-- Settles O21: the event raises its own flag, `IFR[3]`. -/
theorem decedgeSetsDecfOnly : Obligations.DecedgeSetsDecfOnly := by
  intro s hc
  exact decode_and_exec_of_formatN .decedge Laws.EncodedWordIsLegal.decedge rfl hc rfl (raiseEvent_out _ .dec)
    (raiseEvent_el s.startOp .dec)

end Sys2Proof.Machine
end

section
/-! SUPPORT. Proofs of the family of the PWM Actuator: `PCLK n` (R152). -/

namespace Sys2Proof

theorem encode_pclk (n : Imm) : encode (.pclk n) = 0xA000#16 ++ n := by
  have upper : 0xA#4 ++ 0#4 ++ 0#8 = 0xA000#16 := by decide
  exact congrArg (· ++ n) upper

end Sys2Proof

namespace Sys2Proof.Machine

/-- A count of the PWM counter gives no output of its own: `PWM_OUT` is computed from the elements (R153). -/
theorem exec_pclk_out {n : Imm} {s t : State} (h : exec (.pclk n) s = .next t) : t.out = Outputs.quiet := by
  obtain ⟨-, -, rfl⟩ := exec_eq_next.mp h
  exact pwmCount_out s.startOp n

/-- The counter after `k` counts is the sum modulo `PERIOD`, which fits its sixteen bits (R152). -/
theorem afterPwmCounts_pcnt_mod {e : Elements} (hp : e.pcnt.toNat < e.period.toNat) (k : Nat) :
    (e.afterPwmCounts k).pcnt.toNat = (e.pcnt.toNat + k) % e.period.toNat :=
  (afterPwmCounts_pcnt hp k).trans (countUp_eq_mod hp)

/-- Settles O25: the elements after `PCLK n` are those after `n` counts, which differ in the counter only. -/
theorem pclkCountsModuloPeriod : Obligations.PclkCountsModuloPeriod := by
  intro s n hc hd hp
  obtain ⟨t, completes, counted⟩ := exec_pclk hc (BitVec.lt_def.mp hd) hp n
  refine ⟨?_, t, completes, ?_, ?_, exec_pclk_out completes, exec_cfg completes, exec_trace completes⟩
  · rw [← encode_pclk]
    exact decode_encode_of_legal (Laws.EncodedWordIsLegal.pclk n) rfl
  · rw [counted]
    exact afterPwmCounts_pcnt_mod hp n.toNat
  · rw [counted, Elements.afterPwmCounts]

end Sys2Proof.Machine
end

section
/-! SUPPORT. Proofs of the family of the Control Scheduler: `TICK` (R163) through H_TICK (R162). -/

namespace Sys2Proof.Machine

/-- H_TICK writes its six elements and no other, `IFR` and `TCNT` among those unchanged (R162, R163). -/
theorem hTick_el_frame (s : State) :
    (hTick s).el = { s.el with
      duty := (hTick s).el.duty, perr := (hTick s).el.perr, integ := (hTick s).el.integ, scnt := (hTick s).el.scnt,
      debi := (hTick s).el.debi, debd := (hTick s).el.debd } := rfl

/-- The error of an invocation fits the register that keeps it (R137). -/
theorem hTick_el_perr_toInt {s : State} (h : s.Inv) : (hTick s).el.perr.toInt = pidE s := by
  obtain ⟨low, high⟩ := pidE_fits h
  exact storeS32_fits low high

/-- Settles O26: `TICK` is H_TICK, and under INV every register holds the integer that its step computes. The steps written
out in the statement are `pidE` to `pidCnt` of the state in which the operation begins. -/
theorem tickAgesAndRunsControlLaw : Obligations.TickAgesAndRunsControlLaw := by
  intro s h
  have hc : s.cfg.WellFormed := Inv_cfg h
  have h' : s.startOp.Inv := Inv_congr rfl rfl h
  obtain ⟨decodes, t, completes, rfl, quiet, cfg, trace⟩ :=
    decode_and_exec_of_formatN .tick (P := (· = hTick s.startOp)) Laws.EncodedWordIsLegal.tick rfl hc rfl (hTick_out _) rfl
  exact ⟨decodes, _, completes,
    pidDuty_toNat (s := s.startOp) (period_pos h'),
    hTick_el_perr_toInt (s := s.startOp) h',
    pidInteg_toInt (s := s.startOp) hc,
    pidScnt_toNat (s := s.startOp) h',
    agedCounter_toNat hc s.el.debi,
    agedCounter_toNat hc s.el.debd,
    hTick_el_frame s.startOp,
    quiet, cfg, trace⟩

end Sys2Proof.Machine
end

section
/-! SUPPORT. Proofs of the family of the system and the host: `SVC` through the dispatch step (R172, R186), `RD reg`
through the register space (R61, R62, R173), and `NOP` and `RST` (R170, R171). -/

namespace Sys2Proof

/-- The match word of a row without operands encodes its operation, under every configuration (R83, R84). -/
theorem decode_matchWord_of_formatN (c : Cfg) (i : Instr) (legal : Laws.EncodedWordIsLegal.Statement i)
    (noOperand : i.opcode.format = .n) (hw : i.wf c = true) : decode c i.opcode.matchWord = .ok i := by
  rw [← encode_eq_matchWord noOperand]
  exact decode_encode_of_legal legal hw

theorem encode_rd (reg : Reg) : encode (.rd reg) = 0xC#4 ++ reg.toBits ++ 0x000000#24 := by
  have lower : 0#8 ++ 0#16 = 0x000000#24 := by decide
  calc encode (.rd reg) = 0xC#4 ++ reg.toBits ++ 0#8 ++ 0#16 := rfl
    _ = 0xC#4 ++ reg.toBits ++ (0#8 ++ 0#16) := BitVec.append_assoc
    _ = 0xC#4 ++ reg.toBits ++ 0x000000#24 := by rw [lower]

end Sys2Proof

namespace Sys2Proof.Machine

/-! ### The dispatcher -/

/-- The priority of R185, on the bits of `IFR` (R34). -/
theorem highestPending_eq_by_bits (f : BitVec 4) : highestPending f =
    if f.getLsbD 0 then some .tick else if f.getLsbD 1 then some .conv else if f.getLsbD 2 then some .inc
    else if f.getLsbD 3 then some .dec else none := by
  revert f; decide

/-- `SVC` that serves an event runs its handler on the state in which the flag is cleared (R172, R188). -/
theorem effectOf_svc_of_served {s : State} {ev : Event} (served : highestPending s.el.ifr = some ev) :
    effectOf .svc s.startOp = handler ev (s.enterHandler ev).startOp := dispatchStep_some (s := s.startOp) served

/-- `SVC` with nothing pending does nothing (R172). -/
theorem effectOf_svc_of_none {s : State} (nonePending : highestPending s.el.ifr = none) :
    effectOf .svc s.startOp = s.startOp := dispatchStep_none (s := s.startOp) nonePending

/-- An operation that is the handler of an event invoked directly, on the state with the flag cleared, is the `SVC` that
serves the event (R163, R125, R126, R172). -/
theorem exec_direct_eq_svc {s : State} {i : Instr} {ev : Event} (hc : s.cfg.WellFormed)
    (direct : effectOf i = handler ev) (always : ∀ t, stated i t = true) (served : highestPending s.el.ifr = some ev) :
    exec i (s.enterHandler ev) = .next (effectOf .svc s.startOp) := by
  rw [exec_next (s := s.enterHandler ev) hc (always _), direct, effectOf_svc_of_served served]

/-- H_CONV stores the whole of a latch that is in range: its two parts recombine (R63, R112). -/
theorem hConv_el_of_adcd_lt {s : State} (hc : s.cfg.WellFormed) (hd : s.el.adcd.toNat < 2 ^ s.cfg.adcBits) :
    (hConv s).el = { s.el with raw := s.el.adcd, adcRun := true } := by
  rw [hConv_el, combineParts_eq (Cfg.adcBits_ge hc) hd]

/-- Settles O27: one case for each branch of the priority, the handler of the event in it. -/
theorem svcServesHighestPriorityEvent : Obligations.SvcServesHighestPriorityEvent := by
  intro s h
  have hc : s.cfg.WellFormed := Inv_cfg h
  have completes : exec .svc s = .next (effectOf .svc s.startOp) := exec_next hc rfl
  have priority := highestPending_eq_by_bits s.el.ifr
  refine ⟨decode_matchWord_of_formatN s.cfg .svc Laws.EncodedWordIsLegal.svc rfl rfl, _, completes, exec_cfg completes,
    exec_trace completes, ?_⟩
  split_ifs at priority ⊢ with tick conv inc dec
  · exact exec_direct_eq_svc hc rfl (fun _ => rfl) priority
  · rw [effectOf_svc_of_served priority]
    exact ⟨hConv_el_of_adcd_lt (s := (s.enterHandler .conv).startOp) hc (Inv_adcd h), rfl⟩
  · exact exec_direct_eq_svc hc rfl (fun _ => rfl) priority
  · exact exec_direct_eq_svc hc rfl (fun _ => rfl) priority
  · rw [effectOf_svc_of_none priority]
    exact ⟨rfl, rfl⟩

/-! ### The register space -/

section
variable {s : State} {reg : Reg} {v : Word}

/-- A register of sixteen bits that the map shows unsigned reads as its own value (R61). -/
theorem toNat_of_reads_unsigned {x : BitVec 16} (map : registerSpace s reg = some (x.zeroExtend 32))
    (hv : registerSpace s reg = some v) : v.toNat = x.toNat := by
  obtain rfl : x.zeroExtend 32 = v := Option.some.inj (map.symm.trans hv)
  exact BitVec.toNat_setWidth_of_le (by decide)

/-- A register of sixteen bits that the map shows signed reads as its own value (R61). -/
theorem toInt_of_reads_signed {x : BitVec 16} (map : registerSpace s reg = some (x.signExtend 32))
    (hv : registerSpace s reg = some v) : v.toInt = x.toInt := by
  obtain rfl : x.signExtend 32 = v := Option.some.inj (map.symm.trans hv)
  exact BitVec.toInt_signExtend_of_le (by decide)

/-- The fields of a word laid out as `STATUS` (R62). -/
theorem toNat_statusFields (pwm run : Bool) (f : BitVec 4) :
    (0#26 ++ BitVec.ofBool pwm ++ BitVec.ofBool run ++ f).toNat = f.toNat + 16 * run.toNat + 32 * pwm.toNat := by
  revert f; cases pwm <;> cases run <;> decide

/-- `STATUS` field by field, where `PWM_OUT` has a value (R62, R156). -/
theorem toNat_of_reads_status (hd : s.actuatorStated = true) (hv : registerSpace s .status = some v) :
    v.toNat = s.el.ifr.toNat + 16 * s.el.adcRun.toNat + 32 * (decide (s.el.pcnt < s.el.duty)).toNat := by
  have fields : registerSpace s .status = some
      (0#26 ++ BitVec.ofBool (decide (s.el.pcnt < s.el.duty)) ++ BitVec.ofBool s.el.adcRun ++ s.el.ifr) := by
    rw [registerSpace, State.statusWord, pwmOut_of_stated hd, Option.map_some]
  obtain rfl := Option.some.inj (fields.symm.trans hv)
  exact toNat_statusFields _ _ _

/-- `RD reg` completes where its word has a value, which is its one output (R173). -/
theorem exec_rd (hc : s.cfg.WellFormed) (hd : reg = .status → s.actuatorStated = true) :
    ∃ t v, exec (.rd reg) s = .next t ∧ t.el = s.el ∧ t.out = ⟨false, some v⟩ ∧
      registerSpace s.startOp reg = some v := by
  obtain ⟨v, hv⟩ := Option.isSome_iff_exists.mp (registerSpace_isSome (s := s.startOp) hd)
  have completes := exec_next (i := .rd reg) hc (registerSpace_isSome hd)
  exact ⟨_, v, completes, rfl, congrArg (Outputs.mk false) hv, hv⟩

end

/-- Settles O29: the word read is that of the register map, in the state in which the operation begins. -/
theorem rdReadsRegisterSpace : Obligations.RdReadsRegisterSpace := by
  intro s reg hc below
  have hd : reg = .status → s.actuatorStated = true := fun e => actuatorStated_iff.mpr (BitVec.lt_def.mp (below e))
  obtain ⟨t, v, completes, el, out, hv⟩ := exec_rd hc hd
  refine ⟨?_, t, v, completes, el, out, exec_cfg completes, exec_trace completes, ?_⟩
  · rw [← encode_rd]
    exact decode_encode_of_legal (Laws.EncodedWordIsLegal.rd reg) rfl
  · refine ⟨?raw, ?sp, ?duty, ?period, ?integ, ?perr, ?scnt, ?debi, ?debd, ?status, ?adcd, ?tcnt, ?pcnt⟩ <;> rintro rfl
    case sp => exact toInt_of_reads_signed rfl hv
    case integ | perr => exact (Option.some.inj hv).symm
    case status => exact toNat_of_reads_status (s := s.startOp) (hd rfl) hv
    all_goals exact toNat_of_reads_unsigned rfl hv

/-! ### No operation, and reset -/

/-- Settles O16: the effect is the state in which the operation begins. -/
theorem nopChangesNothing : Obligations.NopChangesNothing := by
  intro s hc
  exact decode_and_exec_of_formatN .nop (P := fun t => t.el = s.el) Laws.EncodedWordIsLegal.nop rfl hc rfl rfl rfl

/-- The period register holds the configured period whole (R10, R40). -/
theorem reset_period_toNat {c : Cfg} (hc : c.WellFormed) : (Elements.reset c).period.toNat = c.pwmPeriod := by
  have fits := Cfg.pwmPeriod_le hc
  exact Nat.mod_eq_of_lt (by omega)

/-- `RST` from any state leaves the reset values and the request of the first conversion (R171). -/
theorem exec_rst {s : State} (hc : s.cfg.WellFormed) :
    ∃ t, exec .rst s = .next t ∧ t.el = Elements.reset s.cfg ∧ t.out = Outputs.afterReset :=
  ⟨_, exec_next hc rfl, resetAll_el s.startOp, resetAll_out s.startOp⟩

/-- Settles O17: the elements are `Elements.reset`, read off one by one. -/
theorem resetGivesResetValues : Obligations.ResetGivesResetValues := by
  intro s hc
  obtain ⟨t, completes, el, out⟩ := exec_rst hc
  refine ⟨decode_matchWord_of_formatN s.cfg .rst Laws.EncodedWordIsLegal.rst rfl rfl, t, completes, ?_⟩
  rw [el]
  exact ⟨rfl, rfl, rfl, rfl, rfl, rfl, rfl, rfl, rfl, rfl, reset_period_toNat hc, rfl, rfl, rfl, out,
    exec_cfg completes, exec_trace completes⟩

end Sys2Proof.Machine
end

section
/-! SUPPORT. Proofs of the family of the remaining statements, the encoding: the two identities of R88, the operation table
R84, the six refusing cases of R88, and the written form of a trace (R93). -/

namespace Sys2Proof

/-! ### The two identities -/

/-- The word of every operation is legal in its format (R82, R83). -/
theorem encodedWordIsLegal (i : Instr) : Laws.EncodedWordIsLegal.Statement i := by
  cases i with
  | nop => exact Laws.EncodedWordIsLegal.nop
  | rst => exact Laws.EncodedWordIsLegal.rst
  | adcdone d => exact Laws.EncodedWordIsLegal.adcdone d
  | conv d => exact Laws.EncodedWordIsLegal.conv d
  | incedge => exact Laws.EncodedWordIsLegal.incedge
  | decedge => exact Laws.EncodedWordIsLegal.decedge
  | inc => exact Laws.EncodedWordIsLegal.inc
  | dec => exact Laws.EncodedWordIsLegal.dec
  | tclk n => exact Laws.EncodedWordIsLegal.tclk n
  | tick => exact Laws.EncodedWordIsLegal.tick
  | pclk n => exact Laws.EncodedWordIsLegal.pclk n
  | svc => exact Laws.EncodedWordIsLegal.svc
  | rd reg => exact Laws.EncodedWordIsLegal.rd reg

/-- Every operation that can happen is what its word decodes to (R88). -/
theorem decode_encode {c : Cfg} {i : Instr} (hw : i.wf c = true) : decode c (encode i) = .ok i :=
  decode_encode_of_legal (encodedWordIsLegal i) hw

/-- Settles O10: the word of every operation is legal in its format, so decoding reaches case 7 with its fields. -/
theorem decodeAfterEncodeIsIdentity : Obligations.DecodeAfterEncodeIsIdentity := fun _ _ => decode_encode

/-- A word with ZERO field 0 is legal in a format iff the operand fields that the format leaves out are 0 (R83). -/
theorem formatFault_eq_none_iff {f : Format} {w : Word} (hz : zeroField w = 0#8) :
    formatFault f w = none ↔ (f ≠ .r → regField w = 0#4) ∧ (f ≠ .i → immField w = 0#16) := by
  cases f <;> simp [formatFault, low28_eq_zero_iff, hz]

/-- An operation keeps its `IMM` field in format I only (R83). -/
theorem immBits_operation (o : Opcode) (imm : Imm) (reg : Reg) :
    (o.operation imm reg).immBits = if o.format = .i then imm else 0#16 := by
  cases o <;> rfl

/-- An operation keeps its `REG` field in format R only (R83). -/
theorem regBits_operation (o : Opcode) (imm : Imm) (reg : Reg) :
    (o.operation imm reg).regBits = if o.format = .r then reg.toBits else 0#4 := by
  cases o <;> rfl

/-- Settles O11: a decoded word is legal in its format, so the fields that the operation keeps, and 0 in the others, are
the fields of the word. -/
theorem encodeAfterDecodeIsIdentity : Obligations.EncodeAfterDecodeIsIdentity := by
  intro c w i h
  obtain ⟨zero, o, code, format, rfl, wf⟩ := decode_eq_ok.mp h
  obtain ⟨regUnused, immUnused⟩ := (formatFault_eq_none_iff zero).mp format
  refine ⟨?_, wf⟩
  have reg : (o.operation (immField w) (Reg.ofBits (regField w))).regBits = regField w := by
    rw [regBits_operation, reg_toBits_ofBits]
    exact ite_eq_left_iff.mpr fun h => (regUnused h).symm
  have imm : (o.operation (immField w) (Reg.ofBits (regField w))).immBits = immField w := by
    rw [immBits_operation]
    exact ite_eq_left_iff.mpr fun h => (immUnused h).symm
  rw [encode, opcode_of_operation, reg, imm, opcode_toBits_of_ofBits code, ← zero, word_eq_fields]

/-! ### The operation table -/

/-- A word is determined by its four fields (R82). -/
theorem append_fields_inj {a a' b b' : BitVec 4} {z z' : BitVec 8} {m m' : Imm} :
    a ++ b ++ z ++ m = a' ++ b' ++ z' ++ m' ↔ a = a' ∧ b = b' ∧ z = z' ∧ m = m' := by
  constructor
  · intro h
    have opc := congrArg opcField h
    have reg := congrArg regField h
    have zero := congrArg zeroField h
    have imm := congrArg immField h
    rw [opcField_append, opcField_append] at opc
    rw [regField_append, regField_append] at reg
    rw [zeroField_append, zeroField_append] at zero
    rw [immField_append, immField_append] at imm
    exact ⟨opc, reg, zero, imm⟩
  · rintro ⟨rfl, rfl, rfl, rfl⟩
    rfl

/-- The mask of a row covers `OPC`, `ZERO` and the operand fields that the row's format leaves out (R83, R84). -/
theorem maskWord_fields (o : Opcode) : o.maskWord =
    0xF#4 ++ (if o.format = .r then 0x0#4 else 0xF#4) ++ 0xFF#8 ++ (if o.format = .i then 0x0000#16 else 0xFFFF#16) := by
  cases o <;> decide

theorem matchWord_fields (o : Opcode) : o.matchWord = o.toBits ++ 0#4 ++ 0#8 ++ 0#16 := by
  cases o <;> decide

/-- A field under its part of the mask is 0: it is 0, if the mask covers it. -/
theorem and_mask_eq_zero_iff {k : Nat} {p : Prop} [Decidable p] (x : BitVec k) :
    x &&& (if p then 0#k else BitVec.allOnes k) = 0#k ↔ (¬ p → x = 0#k) := by
  by_cases h : p <;> simp [h]

/-- `(w AND mask) = match`, field by field (R84). -/
theorem and_maskWord_eq_matchWord_iff (w : Word) (o : Opcode) :
    w &&& o.maskWord = o.matchWord ↔
      opcField w = o.toBits ∧ (o.format ≠ .r → regField w = 0#4) ∧ zeroField w = 0#8 ∧
        (o.format ≠ .i → immField w = 0#16) := by
  have opc : opcField w &&& 0xF#4 = opcField w := BitVec.and_allOnes
  have zero : zeroField w &&& 0xFF#8 = zeroField w := BitVec.and_allOnes
  have reg := and_mask_eq_zero_iff (p := o.format = .r) (regField w)
  have imm := and_mask_eq_zero_iff (p := o.format = .i) (immField w)
  calc w &&& o.maskWord = o.matchWord
      ↔ (opcField w ++ regField w ++ zeroField w ++ immField w) &&& o.maskWord = o.matchWord := by rw [word_eq_fields]
    _ ↔ _ := by
      rw [maskWord_fields, matchWord_fields, BitVec.and_append, BitVec.and_append, BitVec.and_append,
        append_fields_inj, opc, zero]
      exact and_congr_right' (and_congr reg (and_congr_right' imm))

/-- The side condition of a row: the sample of `ADCDONE` and `CONV` is in range (R85). -/
theorem wf_operation_iff {c : Cfg} {o : Opcode} {imm : Imm} {reg : Reg} :
    (o.operation imm reg).wf c = true ↔ (o = .adcdone ∨ o = .conv → imm.toNat < 2 ^ c.adcBits) := by
  cases o <;> simp [Opcode.operation, Instr.wf, Cfg.sampleOk]

/-- Settles O12: both sides say the same of the four fields. -/
theorem decodeAgreesWithOperationTable : Obligations.DecodeAgreesWithOperationTable := by
  intro c w o
  have code : Opcode.ofBits (opcField w) = some o ↔ opcField w = o.toBits :=
    ⟨fun h => (opcode_toBits_of_ofBits h).symm, fun h => by rw [h, opcode_ofBits_toBits]⟩
  rw [and_maskWord_eq_matchWord_iff]
  constructor
  · rintro ⟨i, h, rfl⟩
    obtain ⟨zero, o, ho, format, rfl, wf⟩ := decode_eq_ok.mp h
    rw [opcode_of_operation] at *
    obtain ⟨regUnused, immUnused⟩ := (formatFault_eq_none_iff zero).mp format
    exact ⟨⟨code.mp ho, regUnused, zero, immUnused⟩, wf_operation_iff.mp wf⟩
  · rintro ⟨⟨ho, regUnused, zero, immUnused⟩, side⟩
    exact ⟨_, decode_eq_ok.mpr ⟨zero, o, code.mpr ho, (formatFault_eq_none_iff zero).mpr ⟨regUnused, immUnused⟩, rfl,
      wf_operation_iff.mpr side⟩, opcode_of_operation _ _ _⟩

/-! ### The words that encode no operation -/

/-- The formats of the operation codes, by `OPC` value (R83, R84). -/
theorem format_of_opc (b : BitVec 4) :
    (b.toNat ∈ [0, 1, 4, 5, 6, 7, 9, 11] → (Opcode.ofBits b).map Opcode.format = some .n) ∧
    (b.toNat ∈ [2, 3, 8, 10] → (Opcode.ofBits b).map Opcode.format = some .i) ∧
    (b.toNat = 12 → (Opcode.ofBits b).map Opcode.format = some .r) := by
  revert b; decide

/-- `OPC` 2 and 3 are the two operations that carry a sample (R84). -/
theorem opcode_of_opc_sample {b : BitVec 4} (h : b.toNat ∈ [2, 3]) :
    Opcode.ofBits b = some .adcdone ∨ Opcode.ofBits b = some .conv := by
  revert b; decide

/-- Cases 3, 4 and 5 of R88, which are tested after cases 1 and 2. -/
theorem decode_of_formatFault (c : Cfg) {w : Word} {f : Format} {why : NoOperation} (zero : zeroField w = 0#8)
    (format : (Opcode.ofBits (opcField w)).map Opcode.format = some f) (fault : formatFault f w = some why) :
    decode c w = .error why := by
  obtain ⟨o, ho, rfl⟩ := Option.map_eq_some_iff.mp format
  simp only [decode, zero, ho, fault, ne_eq, not_true_eq_false, ↓reduceIte]

/-- Case 6 of R88, which is tested last. -/
theorem decode_of_not_wf (c : Cfg) {w : Word} {o : Opcode} (zero : zeroField w = 0#8)
    (code : Opcode.ofBits (opcField w) = some o) (format : formatFault o.format w = none)
    (wf : ¬ (o.operation (immField w) (Reg.ofBits (regField w))).wf c = true) :
    decode c w = .error .sampleOutOfRange := by
  simp only [decode, zero, code, format, wf, ne_eq, not_true_eq_false, ↓reduceIte]
  rfl

/-- Settles O13: one case of the decoder for each clause. -/
theorem refusedWordsFollowTheSixCases : Obligations.RefusedWordsFollowTheSixCases := by
  intro c w
  obtain ⟨formatN, formatI, formatR⟩ := format_of_opc (opcField w)
  refine ⟨decode_of_zeroField_ne c, fun zero => ⟨fun h => ?reserved, fun h ne => ?operandN, fun h ne => ?regI,
    fun h ne => ?immR, fun h reg big => ?sample⟩⟩
  case reserved => exact decode_of_opcode_none c zero ((opcode_ofBits_none_iff _).mpr h)
  case operandN => exact decode_of_formatFault c zero (formatN h) (if_neg ne)
  case regI => exact decode_of_formatFault c zero (formatI h) (if_neg ne)
  case immR => exact decode_of_formatFault c zero (formatR h) (if_neg ne)
  case sample =>
    have tooBig : ¬ (immField w).toNat < 2 ^ c.adcBits := not_lt.mpr big
    rcases opcode_of_opc_sample h with code | code
    · exact decode_of_not_wf c zero code (if_pos reg) fun wf => tooBig (wf_operation_iff.mp wf (.inl rfl))
    · exact decode_of_not_wf c zero code (if_pos reg) fun wf => tooBig (wf_operation_iff.mp wf (.inr rfl))

/-- Settles O9: fourteen closed words, decoded. -/
theorem writtenOutWordsDecode : Obligations.WrittenOutWordsDecode := by
  unfold Obligations.WrittenOutWordsDecode
  decide

/-! ### The written form -/

/-- No blank and no comment mark is among the characters: they are one word of a line (R93). -/
def IsLineWord (t : List Char) : Prop := ∀ ch ∈ t, ch ≠ ' ' ∧ ch ≠ '\t' ∧ ch ≠ ';'

/-- The characters of one word are gathered in front of those read before. -/
theorem splitBlanks_append_word {t : List Char} (h : IsLineWord t) (rest acc : List Char) :
    splitBlanks (t ++ rest) acc = splitBlanks rest (t.reverse ++ acc) := by
  induction t generalizing acc with
  | nil => rfl
  | cons ch t ih =>
    obtain ⟨⟨notBlank, notTab, -⟩, tail⟩ := List.forall_mem_cons.mp h
    have here : ¬ (ch = ' ' ∨ ch = '\t') := not_or.mpr ⟨notBlank, notTab⟩
    rw [List.cons_append, splitBlanks, if_neg here, ih tail, List.reverse_cons, List.append_assoc]
    rfl

/-- A line of two words and one blank is split into them. -/
theorem splitBlanks_two_words {m t : List Char} (hm : IsLineWord m) (ht : IsLineWord t) (m_ne : m ≠ [])
    (t_ne : t ≠ []) : splitBlanks (m ++ ' ' :: t) [] = [m, t] := by
  have second : splitBlanks t [] = [t] := by
    have := splitBlanks_append_word ht [] []
    simpa [splitBlanks, t_ne] using this
  rw [splitBlanks_append_word hm, splitBlanks, second]
  simp [m_ne]

/-- A line of a mnemonic, one blank and an operand word is read as the operation they stand for. -/
theorem readLine_mnemonic_operand {o : Opcode} {t : List Char} (ht : IsLineWord t) (t_ne : t ≠ []) :
    readLine (o.text ++ ' ' :: t) = readOperation o [t] := by
  have mnemonicWord : IsLineWord o.text := by cases o <;> simp [IsLineWord, Opcode.text]
  have mnemonic_ne : o.text ≠ [] := by cases o <;> decide
  have mnemonic : readOpcode o.text = some o := by cases o <;> decide
  have noComment : (o.text ++ ' ' :: t).takeWhile (fun ch => decide (ch ≠ ';')) = o.text ++ ' ' :: t := by
    rw [List.takeWhile_eq_self_iff]
    intro ch hch
    rcases List.mem_append.mp hch with h | h
    · exact decide_eq_true (mnemonicWord ch h).2.2
    · rcases List.mem_cons.mp h with rfl | h
      · decide
      · exact decide_eq_true (ht ch h).2.2
  rw [readLine, noComment, splitBlanks_two_words mnemonicWord ht mnemonic_ne t_ne]
  simp only [mnemonic, Option.bind_some]

/-- Decimal digits read back are the number that the library reads in them. -/
theorem readDigits_decimal {t : List Char} (h : ∀ ch ∈ t, ch.isDigit = true) (v : Nat) :
    readDigits 10 decDigit t v = some (Nat.ofDigitChars 10 t v) := by
  induction t generalizing v with
  | nil => rfl
  | cons ch t ih =>
    obtain ⟨digit, tail⟩ := List.forall_mem_cons.mp h
    have value : decDigit ch = some (ch.toNat - 48) := if_pos (Char.isDigit_iff_toNat.mp digit)
    simp only [readDigits, value]
    rw [ih tail, Nat.ofDigitChars_eq_foldl, Nat.ofDigitChars_eq_foldl, Nat.mul_comm]
    rfl

/-- A number with no `x` in it is read in decimal (R93). -/
theorem readNumber_of_no_x {t : List Char} (t_ne : t ≠ []) (noX : 'x' ∉ t) :
    readNumber t = readDigits 10 decDigit t 0 := by
  unfold readNumber
  split
  · exact absurd rfl t_ne
  · simp at noX
  · rfl

/-- The decimal digits of a number are read as it (R93). -/
theorem readNumber_toDigits (n : Nat) : readNumber (Nat.toDigits 10 n) = some n := by
  have digits : ∀ ch ∈ Nat.toDigits 10 n, ch.isDigit = true :=
    fun _ => Nat.isDigit_of_mem_toDigits (by decide) (by decide)
  have noX : 'x' ∉ Nat.toDigits 10 n := fun h => absurd (digits _ h) (by decide)
  rw [readNumber_of_no_x Nat.toDigits_ne_nil noX, readDigits_decimal digits, Nat.ofDigitChars_ten_toDigits]

/-- An immediate, written in decimal, is read back (R93). -/
theorem readImm_toDigits (n : Imm) : readImm ('#' :: Nat.toDigits 10 n.toNat) = some n := by
  simp only [readImm, readNumber_toDigits]
  rw [if_pos n.isLt, BitVec.ofNat_toNat, BitVec.setWidth_eq]

/-- The operand word of an immediate has no blank and no comment mark. -/
theorem isLineWord_immediate (n : Nat) : IsLineWord ('#' :: Nat.toDigits 10 n) := by
  unfold IsLineWord
  rw [List.forall_mem_cons]
  refine ⟨by decide, fun ch h => ?_⟩
  have digit : ch.isDigit = true := Nat.isDigit_of_mem_toDigits (by decide) (by decide) h
  refine ⟨?_, ?_, ?_⟩ <;> rintro rfl <;> exact absurd digit (by decide)

/-- A line with an immediate is read as its operation (R93). -/
theorem readLine_immediate {o : Opcode} (format : o.format = .i) (n : Imm) :
    readLine (o.text ++ ' ' :: '#' :: Nat.toDigits 10 n.toNat) = some (o.operation n .raw) := by
  rw [readLine_mnemonic_operand (isLineWord_immediate _) (List.cons_ne_nil _ _)]
  simp only [readOperation, format, readImm_toDigits, Option.map_some]

/-- A line with a register name is read as its operation (R93). -/
theorem readLine_register (reg : Reg) : readLine (Opcode.rd.text ++ ' ' :: reg.text) = some (.rd reg) := by
  have regWord : IsLineWord reg.text := by cases reg <;> simp [IsLineWord, Reg.text]
  have reg_ne : reg.text ≠ [] := by cases reg <;> decide
  have name : readReg reg.text = some reg := by cases reg <;> decide
  rw [readLine_mnemonic_operand regWord reg_ne]
  simp [readOperation, Opcode.format, name, Opcode.operation]

/-- Settles O15: the lines without operand are read by evaluation, the others word by word. -/
theorem writtenTraceLineReadsBack : Obligations.WrittenTraceLineReadsBack := by
  intro i
  cases i with
  | adcdone d => exact readLine_immediate (o := .adcdone) rfl d
  | conv d => exact readLine_immediate (o := .conv) rfl d
  | tclk n => exact readLine_immediate (o := .tclk) rfl n
  | pclk n => exact readLine_immediate (o := .pclk) rfl n
  | rd reg => exact readLine_register reg
  | _ => decide

end Sys2Proof
end

section
/-! SUPPORT. Proofs of the family of the remaining statements, a step and what it refuses: a step performs the first word of
the trace (R17, R70), and the refusals of R11, R85, R90 and R156. -/

namespace Sys2Proof.Machine

/-! ### One step -/

/-- A step with a word that encodes an operation, under a well-formed `CFG` (R17). -/
theorem step_of_decoded {s : State} {w : Word} {rest : List Word} {i : Instr} (hc : s.cfg.WellFormed)
    (waiting : s.trace = w :: rest) (decoded : decode s.cfg w = .ok i) :
    step s = exec i { s with trace := rest } := by
  simp only [step, if_pos hc, takeWord_cons waiting, decoded]

theorem step_illFormed {s : State} (h : ¬ s.cfg.WellFormed) : step s = .refused .illFormedConfig := if_neg h

/-- Settles O1: under an ill-formed `CFG` the step and the operation are refused alike. -/
theorem stepPerformsDecodedOperation : Obligations.StepPerformsDecodedOperation := by
  intro s w rest i waiting decoded
  by_cases hc : s.cfg.WellFormed
  · exact step_of_decoded hc waiting decoded
  · rw [step_illFormed hc, exec_illFormed (s := { s with trace := rest }) i hc]

/-- Settles O3: no word waits, so the block is idle. -/
theorem idleStepChangesNothing : Obligations.IdleStepChangesNothing := by
  intro s hc idle
  simp only [step, if_pos hc, takeWord_nil idle]

/-- Settles O4: the step answers what the decoder answers. -/
theorem undecodedWordIsRefused : Obligations.UndecodedWordIsRefused := by
  intro s w rest why hc waiting undecoded
  simp only [step, if_pos hc, takeWord_cons waiting, undecoded]

/-- Settles O5: the check of `CFG` comes first, in the step and in every operation. -/
theorem illFormedConfigIsRefused : Obligations.IllFormedConfigIsRefused :=
  fun _ h => ⟨step_illFormed h, fun i => exec_illFormed i h⟩

/-- Settles O6: neither operation is stated for such a sample, and each has the one reason. -/
theorem outOfRangeSampleIsRefused : Obligations.OutOfRangeSampleIsRefused := by
  intro s d hc big
  have notOk : s.cfg.sampleOk d = false := decide_eq_false (not_lt.mpr big)
  exact ⟨operateWhen_not_stated (f := conversionDone d) hc notOk,
    operateWhen_not_stated (f := fun t => hConv (t.latchSample d)) hc notOk⟩

/-- Settles O7: seven closed configurations, each check evaluated. -/
theorem namedConfigurationsAreWellFormed : Obligations.NamedConfigurationsAreWellFormed := by
  unfold Obligations.NamedConfigurationsAreWellFormed
  decide

/-- Settles O28: `PCLK` and `RD STATUS` are stated where `PWM_OUT` has a value. -/
theorem actuatorIsStatedOnlyBelowPeriod : Obligations.ActuatorIsStatedOnlyBelowPeriod := by
  intro s n hc
  split
  case isTrue below => exact pwmOut_of_stated (decide_eq_true below)
  case isFalse notBelow =>
    have notStated : s.actuatorStated = false := decide_eq_false notBelow
    exact ⟨pwmOut_of_not_stated notStated, operateWhen_not_stated hc notStated,
      operateWhen_not_stated hc ((statusWord_isSome s).trans notStated)⟩

/-- Settles O35: the step is idle, or it performs an operation, and no operation writes `CFG`. -/
theorem configurationNeverChanges : Obligations.ConfigurationNeverChanges := by
  intro s t h
  obtain ⟨-, ⟨-, rfl⟩ | ⟨w, rest, i, -, -, completes⟩⟩ := step_eq_next h
  · rfl
  · exact exec_cfg (s := { s with trace := rest }) completes

/-! ### A run of steps -/

/-- Every operation has one of two outcomes (R18): a next state or a refusal. -/
theorem exec_next_or_refused (i : Instr) (s : State) : (∃ t, exec i s = .next t) ∨ ∃ r, exec i s = .refused r := by
  by_cases hc : s.cfg.WellFormed
  · cases hi : stated i s with
    | true => exact .inl ⟨_, exec_next hc hi⟩
    | false =>
      obtain ⟨r, -, refused⟩ := exec_not_stated hc hi
      exact .inr ⟨r, refused⟩
  · exact .inr ⟨_, exec_illFormed i hc⟩

/-- A list of operations completes iff the first one does and the others do from the state it leaves (R70). -/
theorem execAll_cons_eq_next {i : Instr} {l : List Instr} {s t : State} :
    execAll (i :: l) s = .next t ↔ ∃ u, exec i s = .next u ∧ execAll l u = .next t := by
  constructor
  · intro h
    cases first : exec i s with
    | next u => exact ⟨u, rfl, (execAll_cons_next first).symm.trans h⟩
    | fault r => simp only [execAll, first] at h; exact nomatch h
    | refused r => simp only [execAll, first] at h; exact nomatch h
  · rintro ⟨u, first, rest⟩
    rw [execAll_cons_next first, rest]

theorem execAll_cons_refused {i : Instr} {l : List Instr} {s : State} {r : Refusal} (h : exec i s = .refused r) :
    execAll (i :: l) s = .refused r := by
  simp only [execAll, h]

/-- Whether an operation is stated depends on `CFG` and the elements only (R18). -/
theorem stated_congr (i : Instr) {s t : State} (hc : t.cfg = s.cfg) (he : t.el = s.el) : stated i t = stated i s := by
  have actuator : t.actuatorStated = s.actuatorStated := by unfold State.actuatorStated; rw [he]
  cases i with
  | adcdone d => exact congrArg (Cfg.sampleOk · d) hc
  | conv d => exact congrArg (Cfg.sampleOk · d) hc
  | pclk n => exact actuator
  | rd reg =>
    by_cases status : reg = .status
    · subst status
      exact (statusWord_isSome t).trans (actuator.trans (statusWord_isSome s).symm)
    · have hasWord : ∀ u : State, stated (.rd reg) u = true := fun _ => registerSpace_isSome fun e => absurd e status
      rw [hasWord t, hasWord s]
  | _ => rfl

/-- The handlers neither read nor write the flags and the words still to come (R36, R188). -/
theorem handler_with_ifr_trace (ev : Event) (s : State) (f : BitVec 4) (rest : List Word) :
    handler ev { s with el := { s.el with ifr := f }, trace := rest } =
      { handler ev s with el := { (handler ev s).el with ifr := f }, trace := rest } := by
  cases ev with
  | tick => rfl
  | conv => rfl
  | inc =>
    have sameTest : incAccepted { s with el := { s.el with ifr := f }, trace := rest } = incAccepted s := rfl
    simp only [handler, hInc, sameTest]
    split <;> rfl
  | dec =>
    have sameTest : decAccepted { s with el := { s.el with ifr := f }, trace := rest } = decAccepted s := rfl
    simp only [handler, hDec, sameTest]
    split <;> rfl

theorem handler_ifr (ev : Event) (s : State) : (handler ev s).el.ifr = s.el.ifr :=
  congrArg (·.el.ifr) (handler_with_ifr_trace ev s s.el.ifr s.trace)

theorem handler_trace (ev : Event) (s : State) : (handler ev s).trace = s.trace :=
  congrArg (·.trace) (handler_with_ifr_trace ev s s.el.ifr s.trace)

theorem handler_with_trace (ev : Event) (s : State) (rest : List Word) :
    handler ev { s with trace := rest } = { handler ev s with trace := rest } :=
  (handler_with_ifr_trace ev s s.el.ifr rest).trans (by rw [← handler_ifr ev s])

/-- The effect of an operation leaves the words still to come as they are, and reads none of them. -/
theorem effectOf_with_trace (i : Instr) (s : State) (rest : List Word) :
    effectOf i { s with trace := rest } = { effectOf i s with trace := rest } := by
  cases i with
  | inc => exact handler_with_trace .inc s rest
  | dec => exact handler_with_trace .dec s rest
  | svc =>
    simp only [effectOf, dispatchStep]
    split
    · rfl
    · exact handler_with_trace _ (s.enterHandler _) rest
  | rd reg => cases reg <;> rfl
  | _ => rfl

/-- An operation that completes does so whatever words are still to come. -/
theorem exec_with_trace {i : Instr} {s t : State} (h : exec i s = .next t) (rest : List Word) :
    exec i { s with trace := rest } = .next { t with trace := rest } := by
  obtain ⟨hc, hi, rfl⟩ := exec_eq_next.mp h
  exact exec_eq_next.mpr ⟨hc, (stated_congr i rfl rfl).trans hi, (effectOf_with_trace i s.startOp rest).symm⟩

/-- An operation that is refused is so, for the same reason, whatever words are still to come. -/
theorem exec_refused_with_trace {i : Instr} {s : State} {r : Refusal} (h : exec i s = .refused r) (rest : List Word) :
    exec i { s with trace := rest } = .refused r := by
  by_cases hc : s.cfg.WellFormed
  · cases hi : stated i s with
    | true => exact nomatch (exec_next hc hi).symm.trans h
    | false =>
      obtain ⟨q, why, refused⟩ := exec_not_stated hc hi
      obtain ⟨q', why', refused'⟩ :=
        exec_not_stated (s := { s with trace := rest }) hc ((stated_congr i rfl rfl).trans hi)
      have same : q = r := Host.Outcome.refused.inj (refused.symm.trans h)
      rw [refused', ← same, Option.some.inj (why'.symm.trans why)]
  · rw [← h, exec_illFormed i hc, exec_illFormed (s := { s with trace := rest }) i hc]

/-- Settles O2, by induction over the operations: each step performs the first one and leaves the words of the others. -/
theorem stepsPerformTheTraceInOrder : Obligations.StepsPerformTheTraceInOrder := by
  intro l rest
  induction l with
  | nil =>
    rintro ⟨cfg, el, out, trace, ops⟩ - rfl
    rfl
  | cons i l ih =>
    intro s legal waiting
    obtain ⟨wf, tail⟩ := List.forall_mem_cons.mp legal
    have performs : step s = exec i { s with trace := l.map encode ++ rest } :=
      stepPerformsDecodedOperation s _ _ i waiting (decode_encode wf)
    rcases exec_next_or_refused i { s with trace := rest } with ⟨t, completes⟩ | ⟨r, refused⟩
    · have stepped := performs.trans (exec_with_trace completes (l.map encode ++ rest))
      have keeps : { t with trace := rest } = t := congrArg (fun w => { t with trace := w }) (exec_trace completes).symm
      rw [execAll_cons_next completes, List.length_cons, run_succ_next (m := core) stepped,
        ih { t with trace := l.map encode ++ rest } (by rw [exec_cfg completes]; exact tail) rfl, keeps]
    · have stepped := performs.trans (exec_refused_with_trace refused (l.map encode ++ rest))
      exact (run_succ_refused (m := core) stepped).trans (execAll_cons_refused refused).symm

end Sys2Proof.Machine
end

section
/-! SUPPORT. Proofs of the family of the remaining statements, the arithmetic: `fdiv` and the output clamp (R14, R15), and
the ranges of the intermediate values of the control law (R131 to R135). -/

namespace Sys2Proof

/-- Settles O30: `fdiv` is the library's division that rounds down. -/
theorem fdivIsFloor : Obligations.FdivIsFloor := by
  intro a b hb
  rw [fdiv_eq_ediv a hb]
  exact ⟨Int.ediv_mul_le a (ne_of_gt hb), fun q hq => (Int.le_ediv_iff_mul_le hb).mpr hq⟩

/-- Settles O31: the two quotients differ for a negative numerator only, and there the clamp answers 0 for both. -/
theorem roundingDirectionIsInvisible : Obligations.RoundingDirectionIsInvisible := by
  intro a b hi hb hhi
  rcases le_total 0 a with ha | ha
  · rw [fdiv_eq_ediv a hb, Int.tdiv_eq_ediv_of_nonneg ha]
  · have truncated : 0 ≤ (-a).tdiv b := Int.tdiv_nonneg (neg_nonneg.mpr ha) hb.le
    rw [Int.neg_tdiv, neg_nonneg] at truncated
    rw [clamp_of_nonpos (fdiv_nonpos ha hb) hhi, clamp_of_nonpos truncated hhi]

end Sys2Proof

namespace Sys2Proof.Machine

/-- A product of two bounded factors is bounded by the product of the bounds. -/
theorem abs_mul_le_natAbs_mul {k x b : Int} (h : |x| ≤ b) : |k * x| ≤ k.natAbs * b := by
  rw [abs_mul, Int.natCast_natAbs]
  exact mul_le_mul_of_nonneg_left h (abs_nonneg k)

theorem abs_add_le_of_le {x y a b : Int} (hx : |x| ≤ a) (hy : |y| ≤ b) : |x + y| ≤ a + b :=
  (abs_add_le x y).trans (add_le_add hx hy)

section
variable {s : State}

/-- The error is bounded by `E_ABS` (R131). -/
theorem abs_pidE_le (h : s.Inv) : |pidE s| ≤ s.cfg.eAbs := by
  obtain ⟨low, high⟩ := pidE_range h
  have eHi_le : s.cfg.eHi ≤ s.cfg.eAbs := le_max_left _ _
  have rawMax_le : s.cfg.rawMax ≤ s.cfg.eAbs := le_max_right _ _
  unfold Cfg.eLo at low
  exact abs_le.mpr ⟨by omega, by omega⟩

/-- A value between the clamp bounds of the integral is bounded by `I_ABS` (R11, R133). -/
theorem abs_le_iAbs {c : Cfg} {v : Int} (h : c.iLo ≤ v ∧ v ≤ c.iHi) : |v| ≤ c.iAbs := by
  have iLo_le : -c.iLo ≤ c.iAbs := le_max_left _ _
  have iHi_le : c.iHi ≤ c.iAbs := le_max_right _ _
  exact abs_le.mpr ⟨by omega, by omega⟩

/-- The derivative is bounded by `D_ABS` (R134). -/
theorem abs_pidD_le (h : s.Inv) : |pidD s| ≤ s.cfg.dAbs := by
  obtain ⟨eLow, eHigh⟩ := pidE_range h
  obtain ⟨pLow, pHigh⟩ := Inv_perr h
  unfold Cfg.eLo at eLow pLow
  unfold pidD Cfg.dAbs
  exact abs_le.mpr ⟨by omega, by omega⟩

/-- The accumulation fits a signed 32-bit register, by bound V1 (R132). -/
theorem abs_pidAcc1_le (h : s.Inv) : |pidAcc1 s| ≤ 2 ^ 31 - 1 := by
  have step : |s.cfg.kiCoef * pidE s| ≤ s.cfg.kiCoef.natAbs * s.cfg.eAbs := abs_mul_le_natAbs_mul (abs_pidE_le h)
  calc |pidAcc1 s| = |s.el.integ.toInt + s.cfg.kiCoef * pidE s| := by rw [pidAcc1, Int.mul_comm]
    _ ≤ s.cfg.iAbs + s.cfg.kiCoef.natAbs * s.cfg.eAbs := abs_add_le_of_le (abs_le_iAbs (Inv_integ h)) step
    _ ≤ 2 ^ 31 - 1 := Cfg.boundV1 (Inv_cfg h)

/-- The output sum, term by term (R135). -/
theorem abs_pidRaw_le (h : s.Inv) :
    |pidRaw s| ≤ s.cfg.kpCoef.natAbs * s.cfg.eAbs + s.cfg.iAbs + s.cfg.kdCoef.natAbs * s.cfg.dAbs +
      s.cfg.ffCoef.natAbs * s.cfg.rawMax + s.cfg.ffBias.natAbs := by
  have proportional : |s.cfg.kpCoef * pidE s| ≤ s.cfg.kpCoef.natAbs * s.cfg.eAbs :=
    abs_mul_le_natAbs_mul (abs_pidE_le h)
  have integral : |pidAcc2 s| ≤ s.cfg.iAbs := abs_le_iAbs (pidAcc2_range (Inv_cfg h))
  have derivative : |s.cfg.kdCoef * pidD s| ≤ s.cfg.kdCoef.natAbs * s.cfg.dAbs := abs_mul_le_natAbs_mul (abs_pidD_le h)
  have reading : |(s.el.raw.toNat : Int)| ≤ s.cfg.rawMax := by
    rw [Nat.abs_cast]; exact rawMax_of_Inv h
  have feedForward : |s.cfg.ffCoef * s.el.raw.toNat| ≤ s.cfg.ffCoef.natAbs * s.cfg.rawMax :=
    abs_mul_le_natAbs_mul reading
  have bias : |s.cfg.ffBias| ≤ s.cfg.ffBias.natAbs := (Int.natCast_natAbs _).ge
  unfold pidRaw
  exact abs_add_le_of_le (abs_add_le_of_le (abs_add_le_of_le (abs_add_le_of_le proportional integral) derivative)
    feedForward) bias

/-- The output sum, scaled, fits a signed 32-bit register, by bound V2 (R135). -/
theorem abs_pidRaw_scaled_le (h : s.Inv) : |pidRaw s * s.cfg.outNum| ≤ 2 ^ 31 - 1 := by
  rw [abs_mul, Nat.abs_cast]
  exact (mul_le_mul_of_nonneg_right (abs_pidRaw_le h) (by positivity)).trans (Cfg.boundV2 (Inv_cfg h))

/-- Settles O32: each value is bounded by its own bound of R11. -/
theorem pidIntermediatesStayInTheirRanges : Obligations.PidIntermediatesStayInTheirRanges := by
  intro s h
  obtain ⟨spLow, spHigh⟩ := Inv_sp h
  have spNum_nonneg : (0 : Int) ≤ s.cfg.spNum := by positivity
  refine ⟨⟨mul_nonneg spLow spNum_nonneg, ?_⟩, pidE_range h, abs_le.mp (abs_pidAcc1_le h), abs_le.mp (abs_pidD_le h),
    abs_le.mp (abs_pidRaw_scaled_le h)⟩
  exact (mul_le_mul_of_nonneg_right spHigh spNum_nonneg).trans (Cfg.boundV0 (Inv_cfg h))

end

end Sys2Proof.Machine
end

section
/-! SUPPORT. Proofs of the family of the remaining statements, the invariant: INV (R39) holds at reset, every handler and
every operation keeps it, and under it every operation completes (R18). -/

namespace Sys2Proof.Machine

/-! ### INV at reset -/

/-- The reset values of R40 are in the ranges of INV (R39). -/
theorem reset_inv {c : Cfg} (hc : c.WellFormed) : (Elements.reset c).Inv c := by
  have period : (Elements.reset c).period.toNat = c.pwmPeriod := reset_period_toNat hc
  have period_ge : 1 ≤ c.pwmPeriod := Cfg.pwmPeriod_ge hc
  exact ⟨Nat.two_pow_pos _, Nat.two_pow_pos _, ⟨le_refl _, Int.natCast_nonneg _⟩, ⟨Cfg.eLo_nonpos c, Cfg.eHi_nonneg hc⟩,
    ⟨Cfg.iLo_nonpos hc, Cfg.iHi_nonneg hc⟩, Cfg.resetCycles_ge hc, Nat.zero_le _, Nat.zero_le _, period,
    period.symm ▸ period_ge, period.symm ▸ period_ge, Nat.two_pow_pos _⟩

/-- Settles O8: State.reset takes the reset values under P0. -/
theorem resetSatisfiesInvariant : Obligations.ResetSatisfiesInvariant :=
  have p0 : Cfg.p0.WellFormed := namedConfigurationsAreWellFormed Cfg.p0 (List.mem_cons_self ..)
  ⟨⟨p0, reset_inv p0⟩, fun _ => reset_inv⟩

/-! ### The handlers keep INV -/

section
variable {s : State} (h : s.Inv)
include h

/-- H_TICK leaves each of its six elements in its range (R120, R131 to R138). -/
theorem hTick_inv : (hTick s).Inv := by
  obtain ⟨hc, raw, adcd, sp, -, -, scnt, -, -, period, -, pcnt, tcnt⟩ := id h
  have perr : s.cfg.eLo ≤ (hTick s).el.perr.toInt ∧ (hTick s).el.perr.toInt ≤ s.cfg.eHi := by
    rw [hTick_el_perr_toInt h]; exact pidE_range h
  have integ : s.cfg.iLo ≤ (hTick s).el.integ.toInt ∧ (hTick s).el.integ.toInt ≤ s.cfg.iHi := by
    rw [hTick_el_integ, pidInteg_toInt hc]
    split
    · exact ⟨Cfg.iLo_nonpos hc, Cfg.iHi_nonneg hc⟩
    · exact pidAcc2_range hc
  have scnt : (hTick s).el.scnt.toNat < s.cfg.resetCycles := by
    rw [hTick_el_scnt, pidScnt_toNat h]
    have := pidCnt_le h
    split <;> omega
  have debi : (hTick s).el.debi.toNat ≤ s.cfg.debMax := (agedCounter_toNat hc _).trans_le (min_le_right _ _)
  have debd : (hTick s).el.debd.toNat ≤ s.cfg.debMax := (agedCounter_toNat hc _).trans_le (min_le_right _ _)
  exact ⟨hc, raw, adcd, sp, perr, integ, scnt, debi, debd, period, pidDuty_lt (s := s) (period_pos h), pcnt,
    tcnt⟩

/-- H_CONV copies a latch that is in range (R112). -/
theorem hConv_inv : (hConv s).Inv := by
  obtain ⟨hc, -, adcd, rest⟩ := id h
  refine ⟨hc, ?_⟩
  rw [hConv_el_of_adcd_lt hc adcd]
  exact ⟨adcd, adcd, rest⟩

/-- H_INC raises `SP` up to `SP_MAX` only (R121). -/
theorem hInc_inv : (hInc s).Inv := by
  by_cases accepted : incAccepted s = true
  · obtain ⟨hc, raw, adcd, sp, perr, integ, scnt, -, rest⟩ := id h
    obtain ⟨-, belowMax⟩ := incAccepted_iff.mp accepted
    obtain ⟨sp', el⟩ := hInc_accepted hc accepted
    have range : 0 ≤ (hInc s).el.sp.toInt ∧ (hInc s).el.sp.toInt ≤ s.cfg.spMax := by omega
    refine ⟨by rw [hInc_cfg]; exact hc, ?_⟩
    rw [hInc_cfg, el]
    exact ⟨raw, adcd, range, perr, integ, scnt, Nat.zero_le _, rest⟩
  · exact Inv_congr (hInc_cfg s) (hInc_rejected accepted) h

/-- H_DEC lowers `SP` down to 0 only (R122). -/
theorem hDec_inv : (hDec s).Inv := by
  by_cases accepted : decAccepted s = true
  · obtain ⟨hc, raw, adcd, sp, perr, integ, scnt, debi, -, rest⟩ := id h
    obtain ⟨-, notNegative⟩ := decAccepted_iff.mp accepted
    obtain ⟨sp', el⟩ := hDec_accepted accepted
    have range : 0 ≤ (hDec s).el.sp.toInt ∧ (hDec s).el.sp.toInt ≤ s.cfg.spMax := by omega
    refine ⟨by rw [hDec_cfg]; exact hc, ?_⟩
    rw [hDec_cfg, el]
    exact ⟨raw, adcd, range, perr, integ, scnt, debi, Nat.zero_le _, rest⟩
  · exact Inv_congr (hDec_cfg s) (hDec_rejected accepted) h

theorem handler_inv (ev : Event) : (handler ev s).Inv := by
  cases ev with
  | tick => exact hTick_inv h
  | conv => exact hConv_inv h
  | inc => exact hInc_inv h
  | dec => exact hDec_inv h

/-- The dispatch step runs a handler or does nothing (R186). -/
theorem dispatchStep_inv : (dispatchStep s).Inv := by
  cases served : highestPending s.el.ifr with
  | none => rw [dispatchStep_none served]; exact h
  | some ev => rw [dispatchStep_some served]; exact handler_inv (s := s.enterHandler ev) h ev

/-! ### The operations keep INV -/

/-- The timer stays below `2^TMR_BITS` (R160, R161). -/
theorem timerCount_inv (n : Imm) : (timerCount n s).Inv := by
  obtain ⟨hc, raw, adcd, sp, perr, integ, scnt, debi, debd, period, duty, pcnt, tcnt⟩ := id h
  have width := Cfg.two_pow_tmrBits_le hc
  have counted := countUp_lt (n := n.toNat) tcnt
  have stored : (timerCount n s).el.tcnt.toNat < 2 ^ s.cfg.tmrBits := by
    rw [timerCount_el_tcnt, storeU16_fits (by omega)]; exact counted
  exact ⟨hc, raw, adcd, sp, perr, integ, scnt, debi, debd, period, duty, pcnt, stored⟩

/-- The PWM counter stays below `PERIOD` (R151, R152). -/
theorem pwmCount_inv (n : Imm) : (pwmCount n s).Inv := by
  obtain ⟨hc, raw, adcd, sp, perr, integ, scnt, debi, debd, period, duty, pcnt, tcnt⟩ := id h
  have width := s.el.period.isLt
  have counted := countUp_lt (n := n.toNat) pcnt
  have stored : (pwmCount n s).el.pcnt.toNat < s.el.period.toNat := by
    rw [pwmCount_el, storeU16_fits (by omega)]; exact counted
  exact ⟨hc, raw, adcd, sp, perr, integ, scnt, debi, debd, period, duty, stored, tcnt⟩

/-- A sample in range may stand in the latch (R85). -/
theorem latchSample_inv {d : Imm} (ok : s.cfg.sampleOk d = true) : (s.latchSample d).Inv := by
  obtain ⟨hc, raw, -, rest⟩ := id h
  exact ⟨hc, raw, of_decide_eq_true ok, rest⟩

/-- The effect of every operation that is stated keeps INV (R39): INV says nothing of the flags and the outputs. -/
theorem effectOf_inv {i : Instr} (hi : stated i s = true) : (effectOf i s).Inv := by
  cases i with
  | nop => exact h
  | rst => exact ⟨Inv_cfg (s := s) h, reset_inv (Inv_cfg (s := s) h)⟩
  | adcdone d => exact latchSample_inv h hi
  | conv d => exact hConv_inv (latchSample_inv h hi)
  | incedge => exact h
  | decedge => exact h
  | inc => exact hInc_inv h
  | dec => exact hDec_inv h
  | tclk n => exact timerCount_inv h n
  | tick => exact hTick_inv h
  | pclk n => exact pwmCount_inv h n
  | svc => exact dispatchStep_inv h
  | rd reg => exact h

/-- Every operation that completes keeps INV (R39). -/
theorem exec_inv {i : Instr} {t : State} (completes : exec i s = .next t) : t.Inv := by
  obtain ⟨-, hi, rfl⟩ := exec_eq_next.mp completes
  exact effectOf_inv (s := s.startOp) h ((stated_congr i (s := s) (t := s.startOp) rfl rfl).trans hi)

end

/-- Settles O33: the step is idle, or it performs an operation, and `INV` does not speak of the trace. -/
theorem invariantKeptByEveryStep : Obligations.InvariantKeptByEveryStep := by
  intro s t h stepped
  obtain ⟨-, ⟨-, rfl⟩ | ⟨w, rest, i, -, -, completes⟩⟩ := step_eq_next stepped
  · exact h
  · exact exec_inv (s := { s with trace := rest }) h completes

/-- Settles O34: INV holds `DUTY` below `PERIOD`, so every operation is stated. -/
theorem everyOperationCompletes : Obligations.EveryOperationCompletes := by
  intro s i h wf
  have completes := exec_next (Inv_cfg h) (stated_of_wf wf (Inv_duty h))
  exact ⟨_, completes, exec_inv h completes⟩

end Sys2Proof.Machine
end

section
/-! SUPPORT. Proofs of the family of the remaining statements, who writes what: the handler that an operation runs and the
elements it writes (R36, R186), and that under INV the elements an operation leaves depend on `CFG` and the elements only. -/

namespace Sys2Proof.Machine

/-! ### The handler an operation runs -/

/-- The state with other pending flags. -/
def State.withIfr (s : State) (f : BitVec 4) : State := { s with el := { s.el with ifr := f } }

theorem handler_withIfr (ev : Event) (s : State) (f : BitVec 4) :
    handler ev (s.withIfr f) = (handler ev s).withIfr f :=
  (handler_with_ifr_trace ev s f s.trace).trans (by rw [← handler_trace ev s]; rfl)

/-- An operation that runs a handler, H_CONV apart, leaves what the handler leaves, but for the flags (R163, R125, R126,
R172). -/
theorem exec_eq_handler {i : Instr} {s t : State} {ev : Event} (completes : exec i s = .next t)
    (runs : handlerRun i s = some ev) (notConv : ev ≠ .conv) :
    ∃ f, t = (handler ev s.startOp).withIfr f := by
  obtain ⟨-, -, rfl⟩ := exec_eq_next.mp completes
  cases i with
  | conv d => exact absurd (Option.some.inj runs).symm notConv
  | svc =>
    rw [effectOf_svc_of_served runs]
    exact ⟨_, handler_withIfr ev s.startOp (clearFlag s.el.ifr ev)⟩
  | inc =>
    obtain rfl := Option.some.inj runs
    exact ⟨_, handler_withIfr .inc s.startOp s.el.ifr⟩
  | dec =>
    obtain rfl := Option.some.inj runs
    exact ⟨_, handler_withIfr .dec s.startOp s.el.ifr⟩
  | tick =>
    obtain rfl := Option.some.inj runs
    exact ⟨_, handler_withIfr .tick s.startOp s.el.ifr⟩
  | _ => exact nomatch runs

/-- The elements that each handler writes (R36). -/
theorem handler_writes (ev : Event) (s : State) :
    ((handler ev s).el.raw ≠ s.el.raw → ev = .conv) ∧
    (handler ev s).el.adcd = s.el.adcd ∧
    ((handler ev s).el.adcRun ≠ s.el.adcRun → ev = .conv) ∧
    ((handler ev s).el.sp ≠ s.el.sp → ev = .inc ∨ ev = .dec) ∧
    ((handler ev s).el.perr ≠ s.el.perr → ev = .tick) ∧
    ((handler ev s).el.integ ≠ s.el.integ → ev = .tick) ∧
    ((handler ev s).el.scnt ≠ s.el.scnt → ev = .tick) ∧
    ((handler ev s).el.debi ≠ s.el.debi → ev = .tick ∨ ev = .inc) ∧
    ((handler ev s).el.debd ≠ s.el.debd → ev = .tick ∨ ev = .dec) ∧
    ((handler ev s).el.duty ≠ s.el.duty → ev = .tick) ∧
    (handler ev s).el.period = s.el.period ∧
    (handler ev s).el.pcnt = s.el.pcnt ∧
    (handler ev s).el.tcnt = s.el.tcnt := by
  cases ev with
  | tick => simp [handler]
  | conv => simp [handler]
  | inc => rw [handler, hInc_el]; split <;> simp
  | dec => rw [handler, hDec_el]; split <;> simp

/-- Settles O37: an operation that runs a handler writes what the handler writes, `CONV` the latch before it and `SVC` the
flag it serves; the others write the elements of their own rule. -/
theorem onlyTheListedWritersChangeAnElement : Obligations.OnlyTheListedWritersChangeAnElement := by
  intro i s t completes notReset
  obtain ⟨-, -, rfl⟩ := exec_eq_next.mp completes
  cases i with
  | rst => exact absurd rfl notReset
  | inc =>
    have writes := And.intro (handler_writes .inc s.startOp) (handler_ifr .inc s.startOp)
    simpa [effectOf, handlerRun, handler, and_assoc] using writes
  | dec =>
    have writes := And.intro (handler_writes .dec s.startOp) (handler_ifr .dec s.startOp)
    simpa [effectOf, handlerRun, handler, and_assoc] using writes
  | svc =>
    cases served : highestPending s.el.ifr with
    | none => simp [effectOf_svc_of_none served]
    | some ev =>
      rw [effectOf_svc_of_served served]
      simpa [handlerRun, served] using handler_writes ev (s.enterHandler ev).startOp
  | _ => simp [effectOf, handlerRun]

/-! ### The setpoint -/

/-- What an operation can leave in `SP` (R36, R121, R122, R171). -/
theorem exec_sp_toInt {i : Instr} {s t : State} (completes : exec i s = .next t) :
    t.el.sp.toInt = 0 ∨ t.el.sp.toInt = s.el.sp.toInt ∨
      (handlerRun i s = some .inc ∧ incAccepted s = true ∧ t.el.sp.toInt = s.el.sp.toInt + s.cfg.spStep) ∨
      (handlerRun i s = some .dec ∧ decAccepted s = true ∧ t.el.sp.toInt = s.el.sp.toInt - s.cfg.spStep) := by
  have hc : s.cfg.WellFormed := (exec_eq_next.mp completes).1
  by_cases reset : i = .rst
  · subst reset
    obtain ⟨-, -, rfl⟩ := exec_eq_next.mp completes
    exact .inl rfl
  obtain ⟨-, -, -, writers, -⟩ := onlyTheListedWritersChangeAnElement i s t completes reset
  by_cases same : t.el.sp = s.el.sp
  · exact .inr (.inl (congrArg BitVec.toInt same))
  refine .inr (.inr ((writers same).imp (fun runs => ?_) (fun runs => ?_)))
  · obtain ⟨f, rfl⟩ := exec_eq_handler completes runs nofun
    have accepted : incAccepted s.startOp = true := by
      by_contra rejected
      have kept : (hInc s.startOp).el.sp = s.startOp.el.sp := congrArg Elements.sp (hInc_rejected rejected)
      exact same kept
    exact ⟨runs, accepted, (hInc_accepted (s := s.startOp) hc accepted).1⟩
  · obtain ⟨f, rfl⟩ := exec_eq_handler completes runs nofun
    have accepted : decAccepted s.startOp = true := by
      by_contra rejected
      have kept : (hDec s.startOp).el.sp = s.startOp.el.sp := congrArg Elements.sp (hDec_rejected rejected)
      exact same kept
    exact ⟨runs, accepted, (hDec_accepted (s := s.startOp) accepted).1⟩

/-- Settles O36: 0, the setpoint as it was, and the setpoint one step away are multiples of the step. -/
theorem setpointStaysMultipleOfStep : Obligations.SetpointStaysMultipleOfStep := by
  intro s t _ multiple stepped
  obtain ⟨-, ⟨-, rfl⟩ | ⟨w, rest, i, -, -, completes⟩⟩ := step_eq_next stepped
  · exact multiple
  rw [exec_cfg completes]
  obtain sp | sp | ⟨-, -, sp⟩ | ⟨-, -, sp⟩ := exec_sp_toInt completes <;> rw [sp]
  · exact dvd_zero _
  · exact multiple
  · exact dvd_add multiple dvd_rfl
  · exact dvd_sub multiple dvd_rfl

/-! ### What an operation leaves under INV does not depend on its number -/

section
variable {s s' : State} (h : s.Inv) (h' : s'.Inv) (cfg : s.cfg = s'.cfg)
include h h' cfg

/-- H_PID is a function of its six inputs and `CFG` (R130): what it stores fits, so the number of the operation is not
seen. -/
theorem hTick_of_pid_inputs (sp : s.el.sp = s'.el.sp) (raw : s.el.raw = s'.el.raw) (perr : s.el.perr = s'.el.perr)
    (integ : s.el.integ = s'.el.integ) (scnt : s.el.scnt = s'.el.scnt) (period : s.el.period = s'.el.period) :
    (hTick s).el.duty = (hTick s').el.duty ∧ (hTick s).el.perr = (hTick s').el.perr ∧
      (hTick s).el.integ = (hTick s').el.integ ∧ (hTick s).el.scnt = (hTick s').el.scnt := by
  have error : pidE s = pidE s' := by simp only [pidE, pidSpS, sp, raw, cfg]
  have accumulation : pidAcc2 s = pidAcc2 s' := by simp only [pidAcc2, pidAcc1, error, integ, cfg]
  have output : pidOut s = pidOut s' := by simp only [pidOut, pidRaw, pidD, error, accumulation, perr, raw, cfg]
  have count : pidCnt s = pidCnt s' := by simp only [pidCnt, scnt]
  refine ⟨BitVec.eq_of_toNat_eq ?_, BitVec.eq_of_toInt_eq ?_, BitVec.eq_of_toInt_eq ?_, BitVec.eq_of_toNat_eq ?_⟩
  · have duty := pidDuty_toNat (period_pos h)
    have duty' := pidDuty_toNat (period_pos h')
    rw [output, period, ← duty'] at duty
    exact_mod_cast duty
  · rw [hTick_el_perr_toInt h, hTick_el_perr_toInt h', error]
  · rw [hTick_el_integ, hTick_el_integ, pidInteg_toInt (Inv_cfg h), pidInteg_toInt (Inv_cfg h'), accumulation, count, cfg]
  · rw [hTick_el_scnt, hTick_el_scnt, pidScnt_toNat h, pidScnt_toNat h', count, cfg]

/-- Every handler leaves what it leaves from any state with the same `CFG` and elements. -/
theorem handler_el_congr (el : s.el = s'.el) (ev : Event) : (handler ev s).el = (handler ev s').el := by
  cases ev with
  | tick =>
    obtain ⟨duty, perr, integ, scnt⟩ := hTick_of_pid_inputs h h' cfg (congrArg Elements.sp el) (congrArg Elements.raw el)
      (congrArg Elements.perr el) (congrArg Elements.integ el) (congrArg Elements.scnt el) (congrArg Elements.period el)
    have aged (v : Cell) : agedCounter s.ops s.cfg v = agedCounter s'.ops s'.cfg v := BitVec.eq_of_toNat_eq
      (by rw [agedCounter_toNat (Inv_cfg h), agedCounter_toNat (Inv_cfg h'), cfg])
    have debi : (hTick s).el.debi = (hTick s').el.debi := by rw [hTick_el_debi, hTick_el_debi, aged, el]
    have debd : (hTick s).el.debd = (hTick s').el.debd := by rw [hTick_el_debd, hTick_el_debd, aged, el]
    change (hTick s).el = (hTick s').el
    rw [hTick_el_frame s, hTick_el_frame s', duty, perr, integ, scnt, debi, debd, el]
  | conv =>
    change (hConv s).el = (hConv s').el
    rw [hConv_el, hConv_el, cfg, el]
  | inc =>
    change (hInc s).el = (hInc s').el
    have test : incAccepted s = incAccepted s' := by unfold incAccepted; rw [cfg, el]
    by_cases accepted : incAccepted s = true
    · obtain ⟨sp, frame⟩ := hInc_accepted (Inv_cfg h) accepted
      obtain ⟨sp', frame'⟩ := hInc_accepted (Inv_cfg h') (test ▸ accepted)
      have same : (hInc s).el.sp = (hInc s').el.sp := BitVec.eq_of_toInt_eq (by rw [sp, sp', cfg, el])
      rw [frame, frame', same, el]
    · rw [hInc_rejected accepted, hInc_rejected (test ▸ accepted), el]
  | dec =>
    change (hDec s).el = (hDec s').el
    have test : decAccepted s = decAccepted s' := by unfold decAccepted; rw [cfg, el]
    by_cases accepted : decAccepted s = true
    · obtain ⟨sp, frame⟩ := hDec_accepted accepted
      obtain ⟨sp', frame'⟩ := hDec_accepted (s := s') (test ▸ accepted)
      have same : (hDec s).el.sp = (hDec s').el.sp := BitVec.eq_of_toInt_eq (by rw [sp, sp', cfg, el])
      rw [frame, frame', same, el]
    · rw [hDec_rejected accepted, hDec_rejected (test ▸ accepted), el]

/-- Every operation leaves the elements it leaves from any state with the same `CFG` and elements. -/
theorem effectOf_el_congr (el : s.el = s'.el) (i : Instr) : (effectOf i s).el = (effectOf i s').el := by
  cases i with
  | nop => exact el
  | rst => exact congrArg Elements.reset cfg
  | adcdone d => simp only [effectOf, conversionDone_el, el]
  | conv d => simp only [effectOf, hConv_el, latchSample_cfg, latchSample_el, cfg, el]
  | incedge => simp only [effectOf, raiseEvent_el, el]
  | decedge => simp only [effectOf, raiseEvent_el, el]
  | inc => exact handler_el_congr h h' cfg el .inc
  | dec => exact handler_el_congr h h' cfg el .dec
  | tclk n =>
    have width := Cfg.two_pow_tmrBits_le (Inv_cfg h)
    have fits := countUp_lt (n := n.toNat) (Inv_tcnt h)
    have stored := storeU16_ops (k := s.ops) (k' := s'.ops) (fits.trans_le width)
    simp only [effectOf, timerCount, stored]
    rw [cfg, el]
  | tick => exact handler_el_congr h h' cfg el .tick
  | pclk n =>
    have fits := countUp_lt (n := n.toNat) (Inv_pcnt h)
    have stored := storeU16_ops (k := s.ops) (k' := s'.ops) (fits.trans s.el.period.isLt)
    simp only [effectOf, pwmCount_el, stored]
    rw [el]
  | svc =>
    change (dispatchStep s).el = (dispatchStep s').el
    cases served : highestPending s.el.ifr with
    | none =>
      rw [dispatchStep_none served, dispatchStep_none (el ▸ served), el]
    | some ev =>
      have entered : (s.enterHandler ev).el = (s'.enterHandler ev).el := by
        rw [enterHandler_el, enterHandler_el, el]
      rw [dispatchStep_some served, dispatchStep_some (el ▸ served)]
      exact handler_el_congr (s := s.enterHandler ev) (s' := s'.enterHandler ev) h h' cfg entered ev
  | rd reg => exact el

end

/-- Settles O38: `TICK` runs H_PID, which reads those six elements and `CFG` only. -/
theorem pidDependsOnItsSixInputsOnly : Obligations.PidDependsOnItsSixInputsOnly := by
  intro s s' t t' h h' cfg sp raw perr integ scnt period completes completes'
  obtain ⟨-, -, rfl⟩ := exec_eq_next.mp completes
  obtain ⟨-, -, rfl⟩ := exec_eq_next.mp completes'
  exact hTick_of_pid_inputs (s := s.startOp) (s' := s'.startOp) h h' cfg sp raw perr integ scnt period

end Sys2Proof.Machine
end

section
/-! SUPPORT. Proofs of the family of the remaining statements, the controller: the clamp of `DUTY` (R140), the sample counter
(R142), the steady state (R145) and the converter at setpoint 0 (R204). -/

namespace Sys2Proof.Machine

/-- Settles O39: the clamp bounds what step 5 stores, whatever the output sum. -/
theorem dutyIsClampedForEveryInput : Obligations.DutyIsClampedForEveryInput := by
  intro s hc period_ge
  refine ⟨_, exec_next (i := .tick) hc rfl, ?_⟩
  have below : (pidDuty s.startOp).toNat < s.el.period.toNat := pidDuty_lt (s := s.startOp) period_ge
  change (pidDuty s.startOp).toNat ≤ _
  omega

/-! ### The sample counter -/

/-- One invocation counts modulo `RESET_CYCLES` (R138). -/
theorem hTick_scnt_mod {s : State} (h : s.Inv) :
    (hTick s).el.scnt.toNat = (s.el.scnt.toNat + 1) % s.cfg.resetCycles := by
  have below := Inv_scnt h
  rw [hTick_el_scnt, pidScnt_toNat h]
  unfold pidCnt
  split
  case isTrue boundary => rw [boundary, Nat.mod_self]
  case isFalse notBoundary => rw [Nat.mod_eq_of_lt (by omega)]

/-- Every operation but `RST` counts the runs of H_TICK in `SCNT` (R36, R142). -/
theorem exec_scnt_mod {i : Instr} {s t : State} (h : s.Inv) (notReset : i ≠ .rst) (completes : exec i s = .next t) :
    t.el.scnt.toNat = (s.el.scnt.toNat + tickRuns i s) % s.cfg.resetCycles := by
  by_cases runs : handlerRun i s = some .tick
  · obtain ⟨f, rfl⟩ := exec_eq_handler completes runs nofun
    rw [tickRuns, if_pos runs]
    exact hTick_scnt_mod (s := s.startOp) h
  · obtain ⟨-, -, -, -, -, -, writers, -⟩ := onlyTheListedWritersChangeAnElement i s t completes notReset
    have kept : t.el.scnt = s.el.scnt := not_not.mp fun changed => runs (writers changed)
    rw [tickRuns, if_neg runs, kept, Nat.add_zero, Nat.mod_eq_of_lt (Inv_scnt h)]

/-- Along a list of operations without `RST` the counter counts on, modulo `RESET_CYCLES` (R142). -/
theorem execAll_scnt_mod {l : List Instr} {s t : State} (h : s.Inv) (noReset : .rst ∉ l)
    (completes : execAll l s = .next t) :
    t.el.scnt.toNat = (s.el.scnt.toNat + sumAlong tickRuns l s) % s.cfg.resetCycles := by
  induction l generalizing s with
  | nil =>
    obtain rfl := Host.Outcome.next.inj completes
    exact (Nat.mod_eq_of_lt (Inv_scnt h)).symm
  | cons i l ih =>
    rw [List.mem_cons, not_or] at noReset
    obtain ⟨notReset, tail⟩ := noReset
    obtain ⟨u, first, rest⟩ := execAll_cons_eq_next.mp completes
    rw [ih (exec_inv h first) tail rest, exec_scnt_mod h (Ne.symm notReset) first, exec_cfg first,
      sumAlong_cons_next first, Nat.mod_add_mod, Nat.add_assoc]

/-- Settles O40: the counter is 0 at reset. -/
theorem sampleCounterCountsInvocations : Obligations.SampleCounterCountsInvocations := by
  intro l s t hc el noReset completes
  have h : s.Inv := ⟨hc, el ▸ reset_inv hc⟩
  have scnt : s.el.scnt.toNat = 0 := by rw [el]; rfl
  rw [execAll_scnt_mod h noReset completes, scnt, Nat.zero_add]

/-! ### The steady state -/

section
variable {s : State} (noError : pidE s = 0)
include noError

theorem pidAcc2_of_no_error (h : s.Inv) : pidAcc2 s = s.el.integ.toInt := by
  have kept : pidAcc1 s = s.el.integ.toInt := by rw [pidAcc1, noError, zero_mul, add_zero]
  obtain ⟨low, high⟩ := Inv_integ h
  rw [pidAcc2, kept, clamp_of_mem low high]

/-- With no error now and before, and no feed-forward, the output sum is the integral alone (R135, R145). -/
theorem pidRaw_of_no_error (h : s.Inv) (perr : s.el.perr.toInt = 0) (ffCoef : s.cfg.ffCoef = 0)
    (ffBias : s.cfg.ffBias = 0) : pidRaw s = s.el.integ.toInt := by
  simp [pidRaw, pidD, noError, perr, ffCoef, ffBias, pidAcc2_of_no_error noError h]

end

/-- Settles O41: the reading equal to the scaled setpoint is an error of 0. -/
theorem steadyStateOutputIsIntegralTerm : Obligations.SteadyStateOutputIsIntegralTerm := by
  intro s h reading perr ffCoef ffBias
  have h' : s.startOp.Inv := h
  have noError : pidE s.startOp = 0 := sub_eq_zero.mpr reading.symm
  refine ⟨_, exec_next (i := .tick) (Inv_cfg h) rfl, ?_, ?_, rfl, rfl, ?_⟩
  · have duty := pidDuty_toNat (period_pos h')
    rw [pidOut, pidRaw_of_no_error noError h' perr ffCoef ffBias] at duty
    exact duty
  · exact (hTick_el_perr_toInt h').trans noError
  · have integ := pidInteg_toInt (Inv_cfg h')
    rw [pidAcc2_of_no_error noError h'] at integ
    exact integ

/-! ### The converter at setpoint 0 -/

section
variable {s : State} (hc : s.cfg.WellFormed) (sp : s.el.sp.toInt = 0) (integ : s.el.integ.toInt ≤ 0)
  (kiCoef : 0 ≤ s.cfg.kiCoef)
include sp

/-- At setpoint 0 the error is the reading with the sign turned (R131). -/
theorem pidE_nonpos_of_sp_zero : pidE s ≤ 0 := by
  have scaled : pidSpS s = 0 := by rw [pidSpS, sp, zero_mul]; exact Int.zero_fdiv _
  rw [pidE, scaled]
  omega

include hc integ kiCoef

theorem pidAcc2_nonpos_of_sp_zero : pidAcc2 s ≤ 0 := by
  have step : pidE s * s.cfg.kiCoef ≤ 0 := mul_nonpos_of_nonpos_of_nonneg (pidE_nonpos_of_sp_zero sp) kiCoef
  have accumulation : pidAcc1 s ≤ 0 := add_nonpos integ step
  have low := Cfg.iLo_nonpos hc
  have high := Cfg.iHi_nonneg hc
  rw [pidAcc2, clamp_eq_max_min _ (low.trans high)]
  omega

/-- At setpoint 0, with gains as in P0, the scaled output is not positive (R135, R136). -/
theorem pidOut_nonpos_of_sp_zero (kpCoef : 0 ≤ s.cfg.kpCoef) (kdCoef : s.cfg.kdCoef = 0) (ffCoef : s.cfg.ffCoef = 0)
    (ffBias : s.cfg.ffBias = 0) : pidOut s ≤ 0 := by
  have proportional : s.cfg.kpCoef * pidE s ≤ 0 :=
    mul_nonpos_of_nonneg_of_nonpos kpCoef (pidE_nonpos_of_sp_zero sp)
  have sum : pidRaw s ≤ 0 := by
    have accumulation := pidAcc2_nonpos_of_sp_zero hc sp integ kiCoef
    simp only [pidRaw, kdCoef, ffCoef, ffBias, zero_mul, add_zero]
    omega
  have divisor : (0 : Int) < s.cfg.q * s.cfg.outDen := by
    have q := Cfg.q_pos hc
    have outDen := Cfg.outDen_pos hc
    positivity
  exact fdiv_nonpos (mul_nonpos_of_nonpos_of_nonneg sum (Int.natCast_nonneg _)) divisor

end

/-- Settles O42: H_TICK is the one writer of `INTEG` and `DUTY` beside reset, and it leaves a clamped sum of values that
are not positive. -/
theorem converterIsOffWhileSetpointIsZero : Obligations.ConverterIsOffWhileSetpointIsZero := by
  intro i s t h kpCoef kiCoef kdCoef ffCoef ffBias sp integ duty completes _
  have hc : s.startOp.cfg.WellFormed := Inv_cfg h
  by_cases reset : i = .rst
  · subst reset
    obtain ⟨-, -, rfl⟩ := exec_eq_next.mp completes
    exact ⟨le_refl _, rfl⟩
  by_cases runs : handlerRun i s = some .tick
  · obtain ⟨f, rfl⟩ := exec_eq_handler completes runs nofun
    change (pidInteg s.startOp).toInt ≤ 0 ∧ (pidDuty s.startOp).toNat = 0
    constructor
    · rw [pidInteg_toInt hc]
      split
      · exact le_refl _
      · exact pidAcc2_nonpos_of_sp_zero hc sp integ kiCoef
    · have period_ge : 1 ≤ s.startOp.el.period.toNat := period_pos h
      have off := pidDuty_toNat period_ge
      rw [clamp_of_nonpos (pidOut_nonpos_of_sp_zero hc sp integ kiCoef kpCoef kdCoef ffCoef ffBias) (by omega)] at off
      exact_mod_cast off
  · obtain ⟨-, -, -, -, -, integWriters, -, -, -, dutyWriters, -⟩ :=
      onlyTheListedWritersChangeAnElement i s t completes reset
    have integKept : t.el.integ = s.el.integ := not_not.mp fun changed => runs (integWriters changed)
    have dutyKept : t.el.duty = s.el.duty := not_not.mp fun changed => runs (dutyWriters changed)
    rw [integKept, dutyKept]
    exact ⟨integ, duty⟩

end Sys2Proof.Machine
end

section
/-! SUPPORT. Proofs of the family of the remaining statements, the counters: `TCLK n` in closed form (R160, R161) and the
duty cycle of the PWM output (R153, R154). -/

namespace Sys2Proof

theorem encode_tclk (n : Imm) : encode (.tclk n) = 0x8000#16 ++ n := by
  have upper : 0x8#4 ++ 0#4 ++ 0#8 = 0x8000#16 := by decide
  exact congrArg (· ++ n) upper

/-- Over `m` counts in a row, from any count, a counter of `m` states is below `d` exactly `d` times. -/
theorem count_add_mod_lt {m d : Nat} (hd : d ≤ m) (v : Nat) : Nat.count (fun k => (v + k) % m < d) m = d := by
  have periodic : Nat.count (fun k => (m + k) % m < d) v = Nat.count (fun k => k % m < d) v := by
    simp only [Nat.add_mod_left]
  have fromZero : Nat.count (fun k => k % m < d) m = d := by
    obtain ⟨r, rfl⟩ := Nat.exists_eq_add_of_le hd
    have below : Nat.count (fun k => k % (d + r) < d) d = d :=
      Nat.count_of_forall fun k hk => by rw [Nat.mod_eq_of_lt (by omega)]; exact hk
    have above : Nat.count (fun k => (d + k) % (d + r) < d) r = 0 :=
      Nat.count_of_forall_not fun k hk => by rw [Nat.mod_eq_of_lt (by omega)]; omega
    rw [Nat.count_add, below, above, Nat.add_zero]
  have twoWays := congrArg (Nat.count (fun k => k % m < d)) (Nat.add_comm v m)
  rw [Nat.count_add, Nat.count_add, periodic, fromZero, Nat.add_comm d] at twoWays
  exact Nat.add_left_cancel twoWays

end Sys2Proof

namespace Sys2Proof.Machine

/-- Settles O24: the elements after `TCLK n` are those after `n` counts, which differ in the counter and its flag. -/
theorem tclkCountsAndSetsTickf : Obligations.TclkCountsAndSetsTickf := by
  intro s n hc ht
  obtain ⟨t, completes, counted⟩ := exec_tclk hc ht n
  have tcnt : t.el.tcnt.toNat = (s.el.tcnt.toNat + n.toNat) % 2 ^ s.cfg.tmrBits := by
    rw [counted, afterTimerCounts_tcnt hc ht, countUp_eq_mod ht]
  have out : t.out = Outputs.quiet := by
    obtain ⟨-, -, rfl⟩ := exec_eq_next.mp completes
    exact timerCount_out s.startOp n
  refine ⟨?_, t, completes, tcnt, ?_, out, exec_cfg completes, exec_trace completes⟩
  · rw [← encode_tclk]
    exact decode_encode rfl
  · rw [counted]
    simp [Elements.afterTimerCounts, countWraps_eq ht, setFlagIf, setFlag, Event.mask]

/-- `PWM_OUT` after `k` more counts, for `k` within one period (R152, R153). -/
theorem pwmOutAfter_eq {s : State} (h : s.Inv) {k : Nat} (hk : k < s.el.period.toNat) :
    pwmOutAfter k s = some (decide ((s.el.pcnt.toNat + k) % s.el.period.toNat < s.el.duty.toNat)) := by
  have width := s.el.period.isLt
  have operand : (BitVec.ofNat 16 k).toNat = k := Nat.mod_eq_of_lt (by omega)
  obtain ⟨t, completes, counted⟩ := exec_pclk (Inv_cfg h) (Inv_duty h) (Inv_pcnt h) (BitVec.ofNat 16 k)
  rw [operand] at counted
  have pcnt : t.el.pcnt.toNat = (s.el.pcnt.toNat + k) % s.el.period.toNat := by
    rw [counted]; exact afterPwmCounts_pcnt_mod (Inv_pcnt h) k
  have duty : t.el.duty = s.el.duty := by rw [counted, Elements.afterPwmCounts]
  have below : t.actuatorStated = true := actuatorStated_iff.mpr (Inv_duty (exec_inv h completes))
  have output : pwmOutAfter k s = t.pwmOut := by simp only [pwmOutAfter, completes]
  simp only [output, pwmOut_of_stated below, BitVec.lt_def, pcnt, duty]

/-- Settles O44: the counts reached run once through all states of the counter, and `DUTY` of them are below `DUTY`. -/
theorem pwmConductsDutyCountsPerPeriod : Obligations.PwmConductsDutyCountsPerPeriod := by
  intro s h
  constructor
  · have output : (List.range s.el.period.toNat).filter (fun k => pwmOutAfter k s = some true) =
        (List.range s.el.period.toNat).filter
          (fun k => (s.el.pcnt.toNat + k) % s.el.period.toNat < s.el.duty.toNat) := by
      refine List.filter_congr fun k hk => ?_
      simp [pwmOutAfter_eq h (List.mem_range.mp hk)]
    rw [output]
    exact (Nat.count_eq_card_filter_range _ _).symm.trans (count_add_mod_lt (Inv_duty h).le s.el.pcnt.toNat)
  · intro k hk notTrue
    rw [pwmOutAfter_eq h hk] at notTrue ⊢
    simpa using notTrue

end Sys2Proof.Machine
end

section
/-! SUPPORT. Proofs of the family of the remaining statements, events and their service: an event followed by `SVC` (R189),
repeated events (R183), `DRAIN` and `PERIODT` (R94). -/

namespace Sys2Proof.Machine

/-! ### Lists of operations -/

/-- Two lists of operations, one after the other (R70). -/
theorem execAll_append_next {l l' : List Instr} {s u : State} (first : execAll l s = .next u) :
    execAll (l ++ l') s = execAll l' u := by
  induction l generalizing s with
  | nil => obtain rfl := Host.Outcome.next.inj first; rfl
  | cons i l ih =>
    obtain ⟨v, head, tail⟩ := execAll_cons_eq_next.mp first
    rw [List.cons_append, execAll_cons_next head, ih tail]

theorem sumAlong_append_next {f : Instr → State → Nat} {l l' : List Instr} {s u : State} (first : execAll l s = .next u) :
    sumAlong f (l ++ l') s = sumAlong f l s + sumAlong f l' u := by
  induction l generalizing s with
  | nil => obtain rfl := Host.Outcome.next.inj first; exact (Nat.zero_add _).symm
  | cons i l ih =>
    obtain ⟨v, head, tail⟩ := execAll_cons_eq_next.mp first
    rw [List.cons_append, sumAlong_cons_next head, sumAlong_cons_next head, ih tail, Nat.add_assoc]

theorem execAll_single {i : Instr} {s t : State} (h : exec i s = .next t) : execAll [i] s = .next t :=
  execAll_cons_next h

theorem sumAlong_single {f : Instr → State → Nat} {i : Instr} {s t : State} (h : exec i s = .next t) :
    sumAlong f [i] s = f i s := sumAlong_cons_next h

theorem execAll_pair {i j : Instr} {s t u : State} (first : exec i s = .next t) (second : exec j t = .next u) :
    execAll [i, j] s = .next u :=
  (execAll_cons_next first).trans (execAll_single second)

/-! ### An event and its service -/

/-- An event is the next one served if no flag of its own or of a higher priority was set, and its service leaves the
flags as they were (R185, R186). -/
theorem event_served_next (f : BitVec 4) :
    (f &&& 0b0001#4 = 0#4 → highestPending (setFlag f .tick) = some .tick ∧ clearFlag (setFlag f .tick) .tick = f) ∧
    (f &&& 0b0111#4 = 0#4 → highestPending (setFlag f .inc) = some .inc ∧ clearFlag (setFlag f .inc) .inc = f) ∧
    (f = 0#4 → highestPending (setFlag f .dec) = some .dec ∧ clearFlag (setFlag f .dec) .dec = f) := by
  revert f; decide

/-- `SVC` leaves the elements of the handler run on the elements with the flag cleared (R172, R186). -/
theorem exec_svc_serves {s u : State} {ev : Event} (h : s.Inv) (h' : u.Inv) (cfg : s.cfg = u.cfg)
    (served : highestPending s.el.ifr = some ev) (el : { s.el with ifr := clearFlag s.el.ifr ev } = u.el) :
    ∃ t, exec .svc s = .next t ∧ t.el = (handler ev u).el := by
  refine ⟨_, exec_next (Inv_cfg h) rfl, ?_⟩
  rw [effectOf_svc_of_served served]
  exact handler_el_congr (s := (s.enterHandler ev).startOp) h h' cfg el ev

/-- An event that is the next one served, followed by `SVC`, leaves the elements of its handler invoked directly (R189). -/
theorem event_then_svc {i direct : Instr} {ev : Event} {s m : State} (h : s.Inv) (event : exec i s = .next m)
    (raised : m.el = { s.el with ifr := setFlag s.el.ifr ev })
    (next : highestPending (setFlag s.el.ifr ev) = some ev ∧ clearFlag (setFlag s.el.ifr ev) ev = s.el.ifr)
    (effect : effectOf direct = handler ev) (always : stated direct s = true) :
    ∃ t u, execAll [i, .svc] s = .next t ∧ exec direct s = .next u ∧ t.el = u.el := by
  obtain ⟨served, cleared⟩ := next
  have entered : { m.el with ifr := clearFlag m.el.ifr ev } = s.startOp.el := by
    simp only [raised, cleared, startOp_el]
  obtain ⟨t, service, el⟩ := exec_svc_serves (u := s.startOp) (exec_inv h event) h (exec_cfg (s := s) event)
    (by rw [raised]; exact served) entered
  exact ⟨t, _, execAll_pair event service, exec_next (Inv_cfg h) always, by rw [el, effect]⟩

/-- `ADCDONE d` then `SVC`, with no tick pending: the sample is in the latch and in `RAW`, and the next conversion is
requested, whatever sample waited before (R111, R112, R114). -/
theorem exec_adcdone_svc {s : State} {d : Imm} (hc : s.cfg.WellFormed) (hd : d.toNat < 2 ^ s.cfg.adcBits)
    (noTick : s.el.ifr &&& 0b0001#4 = 0#4) :
    ∃ t, execAll [.adcdone d, .svc] s = .next t ∧ t.out = ⟨true, none⟩ ∧
      t.el = { s.el with adcd := d, raw := d, adcRun := true, ifr := clearFlag s.el.ifr .conv } := by
  have flags : ∀ f : BitVec 4, f &&& 0b0001#4 = 0#4 → highestPending (setFlag f .conv) = some .conv ∧
      clearFlag (setFlag f .conv) .conv = clearFlag f .conv := by decide
  obtain ⟨served, cleared⟩ := flags _ noTick
  have done := exec_next (i := .adcdone d) hc (sampleOk_of_lt hd)
  have service := exec_next (i := .svc) (s := effectOf (.adcdone d) s.startOp) hc rfl
  rw [effectOf_svc_of_served served] at service
  refine ⟨_, execAll_pair done service, rfl, ?_⟩
  have whole := hConv_el_of_adcd_lt (s := ((conversionDone d s.startOp).enterHandler .conv).startOp) hc hd
  exact whole.trans (congrArg (fun f => { s.el with adcd := d, raw := d, adcRun := true, ifr := f }) cleared)

/-- Settles O45: `CONV` on a latched sample, and the other three handlers on the elements as they were before the event. -/
theorem eventThenServiceIsDirectHandler : Obligations.EventThenServiceIsDirectHandler := by
  intro s h
  have hc := Inv_cfg h
  obtain ⟨tickNext, incNext, decNext⟩ := event_served_next s.el.ifr
  refine ⟨fun d hd noFlag => ?conv, fun noFlag => ?inc, fun noFlag => ?dec, fun n wraps once noFlag => ?tick⟩
  case conv =>
    have flags : ∀ f : BitVec 4, f &&& 0b0011#4 = 0#4 → f &&& 0b0001#4 = 0#4 ∧ clearFlag f .conv = f := by decide
    obtain ⟨noTick, noConv⟩ := flags _ noFlag
    obtain ⟨t, service, out, el⟩ := exec_adcdone_svc hc hd noTick
    have direct := exec_next (i := .conv d) hc (sampleOk_of_lt hd)
    refine ⟨t, _, service, direct, ?_, out⟩
    rw [el, noConv]
    exact (hConv_latchSample_el (s := s.startOp) hc hd).symm
  case inc => exact event_then_svc h (exec_next (i := .incedge) hc rfl) rfl (incNext noFlag) rfl rfl
  case dec => exact event_then_svc h (exec_next (i := .decedge) hc rfl) rfl (decNext noFlag) rfl rfl
  case tick =>
    obtain ⟨served, cleared⟩ := tickNext noFlag
    obtain ⟨m, event, counted⟩ := exec_tclk hc (Inv_tcnt h) n
    have ifr : m.el.ifr = setFlag s.el.ifr .tick := by
      rw [counted, Elements.afterTimerCounts, countWraps_eq (Inv_tcnt h), decide_eq_true wraps, setFlagIf_true]
    have tcnt : m.el.tcnt.toNat < 2 ^ s.cfg.tmrBits := exec_cfg event ▸ Inv_tcnt (exec_inv h event)
    obtain ⟨hcfg, raw, adcd, sp, perr, integ, scnt, debi, debd, period, duty, pcnt, -⟩ := id h
    obtain ⟨t, service, el⟩ := exec_svc_serves (u := { s.startOp with el := { s.el with tcnt := m.el.tcnt } })
      (exec_inv h event) ⟨hcfg, raw, adcd, sp, perr, integ, scnt, debi, debd, period, duty, pcnt, tcnt⟩
      (exec_cfg (s := s) event) (by rw [ifr]; exact served) (by rw [ifr, cleared, counted, Elements.afterTimerCounts])
    refine ⟨t, _, execAll_pair event service, exec_next hc rfl, ?_⟩
    rw [el]
    rfl

/-- Settles O47: a sample that waits is overwritten, and its flag is the one that is served. -/
theorem secondSampleReplacesFirst : Obligations.SecondSampleReplacesFirst := by
  intro s d1 d2 hc hd1 hd2 noTick
  have flags : ∀ f : BitVec 4, f &&& 0b0001#4 = 0#4 → setFlag f .conv &&& 0b0001#4 = 0#4 ∧
      clearFlag (setFlag f .conv) .conv = clearFlag f .conv := by decide
  obtain ⟨noTick', cleared⟩ := flags _ noTick
  have first := exec_next (i := .adcdone d1) hc (sampleOk_of_lt hd1)
  obtain ⟨t, both, out, el⟩ := exec_adcdone_svc (s := effectOf (.adcdone d1) s.startOp) hc hd2 noTick'
  obtain ⟨u, second, out', el'⟩ := exec_adcdone_svc hc hd2 noTick
  refine ⟨t, u, (execAll_cons_next first).trans both, second, ?_, out.trans out'.symm, congrArg Elements.raw el⟩
  rw [el, el', ← cleared]
  rfl

/-- Two operations of which the second leaves the elements it would have left alone. -/
theorem second_absorbs_first {i j : Instr} {s : State} (hc : s.cfg.WellFormed)
    (hi : ∀ u : State, u.cfg = s.cfg → stated i u = true) (hj : ∀ u : State, u.cfg = s.cfg → stated j u = true)
    (absorbs : (effectOf j (effectOf i s.startOp).startOp).el = (effectOf j s.startOp).el) :
    ∃ t u, execAll [i, j] s = .next t ∧ exec j s = .next u ∧ t.el = u.el := by
  have first := exec_next hc (hi s rfl)
  have cfg : (effectOf i s.startOp).cfg = s.cfg := exec_cfg first
  exact ⟨_, _, execAll_pair first (exec_next (cfg ▸ hc) (hj _ cfg)), exec_next hc (hj s rfl), absorbs⟩

/-- `TICKF` that is 1 stays so, whether the timer wraps or not (R183). -/
theorem setFlagIf_tick_of_set (b : Bool) {f : BitVec 4} (set : f.getLsbD 0 = true) : setFlagIf b f .tick = f := by
  revert f; cases b <;> decide

/-- Settles O46: a flag that is set stays as it is when it is set again, and the second sample replaces the first. -/
theorem repeatedEventsCoalesce : Obligations.RepeatedEventsCoalesce := by
  intro s d1 d2 hc hd1 hd2
  have latched {d : Imm} (hd : d.toNat < 2 ^ s.cfg.adcBits) (u : State) (cfg : u.cfg = s.cfg) :
      stated (.adcdone d) u = true := sampleOk_of_lt (cfg ▸ hd)
  refine ⟨second_absorbs_first hc (fun _ _ => rfl) (fun _ _ => rfl) ?inc,
    second_absorbs_first hc (fun _ _ => rfl) (fun _ _ => rfl) ?dec,
    second_absorbs_first hc (latched hd1) (latched hd2) ?conv,
    fun n set => ⟨_, exec_next (i := .tclk n) hc rfl, ?tick⟩⟩
  case inc => simp only [effectOf, raiseEvent_el, startOp_el, setFlag_idem]
  case dec => simp only [effectOf, raiseEvent_el, startOp_el, setFlag_idem]
  case conv => simp only [effectOf, conversionDone_el, startOp_el, setFlag_idem]
  case tick => simp only [effectOf, timerCount, startOp_el, setFlagIf_tick_of_set _ set]

/-! ### The pseudo-operations that serve -/

/-- The flags that `SVC` leaves: the one of highest priority is cleared (R185, R186). -/
def flagsAfterService (f : BitVec 4) : BitVec 4 :=
  match highestPending f with
  | none => f
  | some ev => clearFlag f ev

theorem dispatchStep_ifr (s : State) : (dispatchStep s).el.ifr = flagsAfterService s.el.ifr := by
  unfold flagsAfterService
  cases served : highestPending s.el.ifr with
  | none => rw [dispatchStep_none served]
  | some ev => rw [dispatchStep_some served, handler_ifr, enterHandler_el]

theorem exec_svc_ifr {s : State} (hc : s.cfg.WellFormed) :
    ∃ t, exec .svc s = .next t ∧ t.cfg.WellFormed ∧ t.el.ifr = flagsAfterService s.el.ifr := by
  have completes := exec_next (i := .svc) hc rfl
  exact ⟨_, completes, by rw [exec_cfg completes]; exact hc, dispatchStep_ifr s.startOp⟩

/-- Settles O48: each `SVC` clears a flag if one is set, and there are four. -/
theorem drainServesEverythingPending : Obligations.DrainServesEverythingPending := by
  intro s h
  obtain ⟨s1, first, hc1, ifr1⟩ := exec_svc_ifr (Inv_cfg h)
  obtain ⟨s2, second, hc2, ifr2⟩ := exec_svc_ifr hc1
  obtain ⟨s3, third, hc3, ifr3⟩ := exec_svc_ifr hc2
  obtain ⟨s4, fourth, -, ifr4⟩ := exec_svc_ifr hc3
  have fourTimes : ∀ f : BitVec 4,
      flagsAfterService (flagsAfterService (flagsAfterService (flagsAfterService f))) = 0#4 := by decide
  refine ⟨s4, ?_, by rw [ifr4, ifr3, ifr2, ifr1, fourTimes]⟩
  exact (execAll_cons_next first).trans ((execAll_cons_next second).trans (execAll_pair third fourth))

/-- The counts of `PERIODT`, for every `TMR_BITS`: `2^TMR_BITS` of them, of which one wraps, and no handler runs (R94). -/
theorem periodt_counts {s : State} (h : s.Inv) :
    ∃ l m, Pseudo.periodt.expand s.cfg = l ++ [.svc] ∧ execAll l s = .next m ∧ m.Inv ∧ m.cfg = s.cfg ∧
      m.el = s.el.afterTimerCounts s.cfg (2 ^ s.cfg.tmrBits) ∧ sumAlong timerWraps l s = 1 ∧
      sumAlong tickRuns l s = 0 := by
  have hc := Inv_cfg h
  have ht := Inv_tcnt h
  by_cases narrow : s.cfg.tmrBits < 16
  · have width : 2 ^ s.cfg.tmrBits < 2 ^ 16 := Nat.pow_lt_pow_right (by decide) narrow
    have operand : (BitVec.ofNat 16 (2 ^ s.cfg.tmrBits)).toNat = 2 ^ s.cfg.tmrBits := Nat.mod_eq_of_lt width
    obtain ⟨m, count, el⟩ := exec_tclk hc ht (BitVec.ofNat 16 (2 ^ s.cfg.tmrBits))
    refine ⟨[.tclk (BitVec.ofNat 16 (2 ^ s.cfg.tmrBits))], m, if_pos narrow, execAll_single count,
      exec_inv h count, exec_cfg count, operand ▸ el, ?_, sumAlong_single count⟩
    rw [sumAlong_single count, timerWraps, operand, Nat.add_div_right _ (Nat.two_pow_pos _), Nat.div_eq_of_lt ht]
  · have tmrBits_le := Cfg.tmrBits_le hc
    have width : 2 ^ s.cfg.tmrBits = 65536 := by rw [show s.cfg.tmrBits = 16 by omega]; rfl
    obtain ⟨u, first, el⟩ := exec_tclk hc ht 32768#16
    have h' := exec_inv h first
    obtain ⟨m, second, el'⟩ := exec_tclk (Inv_cfg h') (Inv_tcnt h') 32768#16
    rw [el, exec_cfg first, afterTimerCounts_add hc ht] at el'
    refine ⟨[.tclk 32768#16, .tclk 32768#16], m, if_neg narrow, execAll_pair first second, exec_inv h' second,
      (exec_cfg second).trans (exec_cfg first), width ▸ el', ?_, ?_⟩
    · have tcnt : u.el.tcnt.toNat = (s.el.tcnt.toNat + 32768) % 65536 := by
        rw [el, afterTimerCounts_tcnt hc ht, countUp_eq_mod ht, width]; rfl
      rw [sumAlong_cons_next first, sumAlong_single second]
      simp only [timerWraps, exec_cfg first, tcnt, width, BitVec.toNat_ofNat]
      omega
    · rw [sumAlong_cons_next first, sumAlong_single second]
      rfl

/-- Settles O49: the counts bring the timer back to where it was and set `TICKF`, which the `SVC` serves. -/
theorem periodtWrapsOnceAndServesTick : Obligations.PeriodtWrapsOnceAndServesTick := by
  intro s h
  have ht := Inv_tcnt h
  obtain ⟨l, m, expand, counts, hm, cfg, el, wraps, runs⟩ := periodt_counts h
  have flags : ∀ f : BitVec 4, highestPending (setFlag f .tick) = some .tick ∧
      clearFlag (setFlag f .tick) .tick = f &&& 0b1110#4 := by decide
  obtain ⟨served, cleared⟩ := flags s.el.ifr
  have ifr : m.el.ifr = setFlag s.el.ifr .tick := by
    rw [el, Elements.afterTimerCounts, countWraps_eq ht, decide_eq_true (Nat.le_add_left _ _), setFlagIf_true]
  have tcnt : m.el.tcnt = s.el.tcnt := by
    apply BitVec.eq_of_toNat_eq
    rw [el, afterTimerCounts_tcnt (Inv_cfg h) ht, countUp_eq_mod ht, Nat.add_mod_right, Nat.mod_eq_of_lt ht]
  have entered : { m.el with ifr := clearFlag m.el.ifr .tick } = { s.el with ifr := s.el.ifr &&& 0b1110#4 } := by
    have frame : m.el = { s.el with tcnt := m.el.tcnt, ifr := m.el.ifr } := by rw [el]; rfl
    rw [ifr, cleared, frame, tcnt]
  rw [← ifr] at served
  obtain ⟨t, service, el'⟩ := exec_svc_serves (u := s.startOp.withIfr (s.el.ifr &&& 0b1110#4)) hm h cfg served entered
  rw [expand, sumAlong_append_next counts, sumAlong_append_next counts, sumAlong_single service, sumAlong_single service,
    wraps, runs, execAll_append_next counts]
  refine ⟨rfl, ?_, t, _, execAll_single service, exec_next (i := .tick) (Inv_cfg h) rfl, el'⟩
  rw [tickRuns, handlerRun, if_pos served]

end Sys2Proof.Machine
end

section
/-! SUPPORT. Proofs of the family of the remaining statements, the events of a run: the pulses of one instant (R81), the
samples under EA1 (R205) and the control periods under EA2 (R206). -/

namespace Sys2Proof.Machine

/-! ### Pulses commute -/

/-- The elements that a pulse leaves, without the number of its operation (R111, R123, R124, R152, R161). -/
def Elements.afterPulse (c : Cfg) (i : Instr) (e : Elements) : Elements :=
  match i with
  | .adcdone d => { e with adcd := d, adcRun := false, ifr := setFlag e.ifr .conv }
  | .incedge => { e with ifr := setFlag e.ifr .inc }
  | .decedge => { e with ifr := setFlag e.ifr .dec }
  | .tclk n => e.afterTimerCounts c n.toNat
  | .pclk n => e.afterPwmCounts n.toNat
  | _ => e

/-- A pulse that can happen completes with these elements (R18). -/
theorem exec_pulse {s : State} {i : Instr} (h : s.Inv) (hi : isPulse i = true) (wf : i.wf s.cfg = true) :
    ∃ t, exec i s = .next t ∧ t.el = s.el.afterPulse s.cfg i := by
  have hc := Inv_cfg h
  cases i with
  | adcdone d => exact ⟨_, exec_next hc wf, rfl⟩
  | incedge => exact ⟨_, exec_next hc rfl, rfl⟩
  | decedge => exact ⟨_, exec_next hc rfl, rfl⟩
  | tclk n => exact exec_tclk hc (Inv_tcnt h) n
  | pclk n => exact exec_pclk hc (Inv_duty h) (Inv_pcnt h) n
  | _ => exact nomatch hi

theorem setFlagIf_setFlag_comm (b : Bool) (f : BitVec 4) (ev ev' : Event) :
    setFlagIf b (setFlag f ev) ev' = setFlag (setFlagIf b f ev') ev := by
  cases b
  · rfl
  · exact setFlag_comm f ev ev'

/-- Two different pulses, in the order of their codes, write different elements and different flags (R36). -/
theorem afterPulse_comm_of_lt (c : Cfg) (e : Elements) {i j : Instr} (hi : isPulse i = true) (hj : isPulse j = true)
    (order : i.opcode.toBits < j.opcode.toBits) :
    (e.afterPulse c i).afterPulse c j = (e.afterPulse c j).afterPulse c i := by
  cases i with
  | adcdone d =>
    cases j with
    | adcdone d' => simp [Instr.opcode, Opcode.toBits] at order
    | incedge => exact congrArg (fun f => { e with adcd := d, adcRun := false, ifr := f }) (setFlag_comm e.ifr .conv .inc)
    | decedge => exact congrArg (fun f => { e with adcd := d, adcRun := false, ifr := f }) (setFlag_comm e.ifr .conv .dec)
    | tclk n =>
      exact congrArg (fun f => { e.afterTimerCounts c n.toNat with adcd := d, adcRun := false, ifr := f })
        (setFlagIf_setFlag_comm _ e.ifr .conv .tick)
    | pclk n => rfl
    | _ => exact nomatch hj
  | incedge =>
    cases j with
    | decedge => exact congrArg (fun f => { e with ifr := f }) (setFlag_comm e.ifr .inc .dec)
    | tclk n =>
      exact congrArg (fun f => { e.afterTimerCounts c n.toNat with ifr := f })
        (setFlagIf_setFlag_comm _ e.ifr .inc .tick)
    | pclk n => rfl
    | adcdone d | incedge => simp [Instr.opcode, Opcode.toBits] at order
    | _ => exact nomatch hj
  | decedge =>
    cases j with
    | tclk n =>
      exact congrArg (fun f => { e.afterTimerCounts c n.toNat with ifr := f })
        (setFlagIf_setFlag_comm _ e.ifr .dec .tick)
    | pclk n => rfl
    | adcdone d | incedge | decedge => simp [Instr.opcode, Opcode.toBits] at order
    | _ => exact nomatch hj
  | tclk n =>
    cases j with
    | pclk n' => rfl
    | adcdone d | incedge | decedge | tclk n' => simp [Instr.opcode, Opcode.toBits] at order
    | _ => exact nomatch hj
  | pclk n =>
    cases j with
    | adcdone d | incedge | decedge | tclk n' | pclk n' => simp [Instr.opcode, Opcode.toBits] at order
    | _ => exact nomatch hj
  | _ => exact nomatch hi

/-- The order of two different pulses is not seen in the elements (R81). -/
theorem afterPulse_comm (c : Cfg) (e : Elements) {i j : Instr} (hi : isPulse i = true) (hj : isPulse j = true)
    (different : i.opcode ≠ j.opcode) :
    (e.afterPulse c i).afterPulse c j = (e.afterPulse c j).afterPulse c i := by
  have codes : i.opcode.toBits ≠ j.opcode.toBits := fun same =>
    different (Option.some.inj (by rw [← opcode_ofBits_toBits, same, opcode_ofBits_toBits]))
  rcases Nat.lt_or_gt_of_ne (mt BitVec.eq_of_toNat_eq codes) with order | order
  · exact afterPulse_comm_of_lt c e hi hj order
  · exact (afterPulse_comm_of_lt c e hj hi order).symm

/-- Two pulses that can happen, one after the other. -/
theorem execAll_pulses {s : State} {i j : Instr} (h : s.Inv) (hi : isPulse i = true) (hj : isPulse j = true)
    (wfi : i.wf s.cfg = true) (wfj : j.wf s.cfg = true) :
    ∃ t, execAll [i, j] s = .next t ∧ t.el = (s.el.afterPulse s.cfg i).afterPulse s.cfg j := by
  obtain ⟨u, first, el⟩ := exec_pulse h hi wfi
  have cfg : u.cfg = s.cfg := exec_cfg first
  obtain ⟨t, second, el'⟩ := exec_pulse (exec_inv h first) hj (cfg.symm ▸ wfj)
  exact ⟨t, execAll_pair first second, by rw [el', el, cfg]⟩

/-- Settles O50: both orders leave what the two pulses leave. -/
theorem pulsesOfOneInstantCommute : Obligations.PulsesOfOneInstantCommute := by
  intro s i j h hi hj different wfi wfj
  obtain ⟨t, ij, el⟩ := execAll_pulses h hi hj wfi wfj
  obtain ⟨u, ji, el'⟩ := execAll_pulses h hj hi wfj wfi
  exact ⟨t, u, ij, ji, by rw [el, el', afterPulse_comm s.cfg s.el hi hj different]⟩

/-! ### The pulses of the instant in which the dispatcher serves -/

/-- Two lists of operations complete iff the first does and the second does from the state it leaves (R70). -/
theorem execAll_append_eq_next {l l' : List Instr} {s t : State} :
    execAll (l ++ l') s = .next t ↔ ∃ u, execAll l s = .next u ∧ execAll l' u = .next t := by
  constructor
  · intro h
    induction l generalizing s with
    | nil => exact ⟨s, rfl, h⟩
    | cons i l ih =>
      obtain ⟨v, first, rest⟩ := execAll_cons_eq_next.mp h
      obtain ⟨u, middle, last⟩ := ih rest
      exact ⟨u, (execAll_cons_next first).trans middle, last⟩
  · rintro ⟨u, first, second⟩
    rw [execAll_append_next first, second]

/-- What a list of operations keeps, if each of them keeps it. -/
theorem execAll_keeps {P : State → Prop} {l : List Instr} {s t : State}
    (keeps : ∀ i ∈ l, ∀ u v, exec i u = .next v → P u → P v) (completes : execAll l s = .next t) (start : P s) : P t := by
  induction l generalizing s with
  | nil => obtain rfl := Host.Outcome.next.inj completes; exact start
  | cons i l ih =>
    obtain ⟨u, first, rest⟩ := execAll_cons_eq_next.mp completes
    obtain ⟨head, tail⟩ := List.forall_mem_cons.mp keeps
    exact ih tail rest (head s u first start)

/-- No operation but `RST` and `SVC` clears a flag (R36, R182). -/
theorem exec_keeps_flag {i : Instr} {s t : State} {ev : Event} (completes : exec i s = .next t) (notReset : i ≠ .rst)
    (notService : i ≠ .svc) (set : pending s.el.ifr ev = true) : pending t.el.ifr ev = true := by
  by_cases same : t.el.ifr = s.el.ifr
  · rw [same]; exact set
  obtain ⟨-, -, -, -, -, -, -, -, -, -, -, -, -, writers⟩ := onlyTheListedWritersChangeAnElement i s t completes notReset
  obtain ⟨-, -, rfl⟩ := exec_eq_next.mp completes
  obtain rfl | rfl | rfl | ⟨d, rfl⟩ | ⟨n, rfl⟩ := writers same
  · exact absurd rfl notService
  · exact (pending_setFlag ..).trans (by rw [startOp_el, set, Bool.or_true])
  · exact (pending_setFlag ..).trans (by rw [startOp_el, set, Bool.or_true])
  · exact (pending_setFlag ..).trans (by rw [startOp_el, set, Bool.or_true])
  · exact (pending_setFlagIf ..).trans (by rw [startOp_el, set, Bool.or_true])

/-- The pulses of an instant between the service and read before them and the reset after them (R81). -/
def Inputs.pulses (p : Inputs) : List Instr :=
  pulse p.adcDone (.adcdone (p.adcHi ++ p.adcLo)) ++ pulse p.tmrClk (.tclk 1#16) ++ pulse p.incEdge .incedge ++
    pulse p.decEdge .decedge ++ pulse p.pwmClk (.pclk 1#16)

/-- The service and the read of an instant, which come before its pulses (R81). -/
def Inputs.serviceAndRead (p : Inputs) (serve : Bool) : List Instr :=
  pulse serve .svc ++ pulse p.rdEn (.rd (Reg.ofBits p.rdAddr))

theorem operations_eq (p : Inputs) (serve : Bool) :
    p.operations serve = p.serviceAndRead serve ++ p.pulses ++ pulse p.rst .rst := by
  simp [Inputs.operations, Inputs.serviceAndRead, Inputs.pulses]

theorem mem_pulse {b : Bool} {i j : Instr} : j ∈ pulse b i ↔ b = true ∧ j = i := by
  cases b <;> simp [pulse]

theorem mem_pulses {p : Inputs} {i : Instr} : i ∈ p.pulses ↔
    (p.adcDone = true ∧ i = .adcdone (p.adcHi ++ p.adcLo)) ∨ (p.tmrClk = true ∧ i = .tclk 1#16) ∨
      (p.incEdge = true ∧ i = .incedge) ∨ (p.decEdge = true ∧ i = .decedge) ∨ (p.pwmClk = true ∧ i = .pclk 1#16) := by
  simp only [Inputs.pulses, List.mem_append, mem_pulse, or_assoc]

theorem isPulse_of_mem_pulses {p : Inputs} {i : Instr} (h : i ∈ p.pulses) : isPulse i = true := by
  obtain ⟨-, rfl⟩ | ⟨-, rfl⟩ | ⟨-, rfl⟩ | ⟨-, rfl⟩ | ⟨-, rfl⟩ := mem_pulses.mp h <;> rfl

/-- Nothing of an instant but its timer pulse counts the timer, and nothing but `rst` resets. -/
theorem operation_before_reset {p : Inputs} {serve : Bool} {i : Instr} (h : i ∈ p.serviceAndRead serve ++ p.pulses)
    (notCount : i ≠ .tclk 1#16) : i ≠ .rst ∧ ∀ n, i ≠ .tclk n := by
  rw [List.mem_append, mem_pulses, Inputs.serviceAndRead, List.mem_append, mem_pulse, mem_pulse] at h
  obtain (⟨-, rfl⟩ | ⟨-, rfl⟩) | ⟨-, rfl⟩ | ⟨-, rfl⟩ | ⟨-, rfl⟩ | ⟨-, rfl⟩ | ⟨-, rfl⟩ := h
  case inr.inr.inl => exact absurd rfl notCount
  all_goals exact ⟨nofun, nofun⟩

/-- A pulse that sets a flag, where what the operations before it keep holds, leaves it set at the end of the instant: the
pulses after it clear none. -/
theorem pending_of_pulse {p : Inputs} {serve : Bool} {s t : State} {i : Instr} {ev : Event} {P : State → Prop}
    (completes : execAll (p.serviceAndRead serve ++ p.pulses) s = .next t) (mem : i ∈ p.pulses)
    (keeps : ∀ j ∈ p.serviceAndRead serve ++ p.pulses, j ≠ i → ∀ u v, exec j u = .next v → P u → P v) (start : P s)
    (sets : ∀ u v, P u → exec i u = .next v → pending v.el.ifr ev = true) : pending t.el.ifr ev = true := by
  obtain ⟨before, after, split, first⟩ := List.eq_append_cons_of_mem mem
  rw [split, ← List.append_assoc] at completes keeps
  obtain ⟨u, reaches, rest⟩ := execAll_append_eq_next.mp completes
  obtain ⟨v, event, last⟩ := execAll_cons_eq_next.mp rest
  have notBefore : i ∉ p.serviceAndRead serve ++ before := by
    rw [List.mem_append, Inputs.serviceAndRead, List.mem_append, mem_pulse, mem_pulse]
    rintro ((⟨-, rfl⟩ | ⟨-, rfl⟩) | h)
    · exact nomatch isPulse_of_mem_pulses mem
    · exact nomatch isPulse_of_mem_pulses mem
    · exact first h
  have reached : P u := execAll_keeps
    (fun j hj => keeps j (List.mem_append_left _ hj) (ne_of_mem_of_not_mem hj notBefore)) reaches start
  refine execAll_keeps (P := fun x => pending x.el.ifr ev = true) (fun j hj x y step set => ?_) last
    (sets u v reached event)
  have isLater : isPulse j = true := isPulse_of_mem_pulses (split ▸ List.mem_append_right _ (List.mem_cons_of_mem _ hj))
  exact exec_keeps_flag step (by rintro rfl; cases isLater) (by rintro rfl; cases isLater) set

theorem pending_eq_getLsbD (f : BitVec 4) :
    pending f .tick = f.getLsbD 0 ∧ pending f .conv = f.getLsbD 1 ∧ pending f .inc = f.getLsbD 2 ∧
      pending f .dec = f.getLsbD 3 := by
  revert f; decide

/-- No operation but `TCLK` and `RST` changes the timer or `CFG` (R36). -/
theorem exec_keeps_timer {i : Instr} {s t : State} (completes : exec i s = .next t) (notReset : i ≠ .rst)
    (notCount : ∀ n, i ≠ .tclk n) : t.el.tcnt = s.el.tcnt := by
  obtain ⟨-, -, -, -, -, -, -, -, -, -, -, -, writers, -⟩ := onlyTheListedWritersChangeAnElement i s t completes notReset
  by_contra changed
  obtain ⟨n, count⟩ := writers changed
  exact notCount n count

/-- A count of the timer from its last state sets `TICKF` (R161). -/
theorem exec_tclk_one_from_last {s t : State} (completes : exec (.tclk 1#16) s = .next t)
    (last : s.el.tcnt.toNat = 2 ^ s.cfg.tmrBits - 1) : pending t.el.ifr .tick = true := by
  have wraps : countWraps (2 ^ s.cfg.tmrBits) s.el.tcnt.toNat 1 = true := by
    have states := Cfg.two_pow_tmrBits_pos s.cfg
    exact decide_eq_true (by omega)
  obtain ⟨-, -, rfl⟩ := exec_eq_next.mp completes
  simp [effectOf, wraps, pending_setFlag]

/-- Settles O51: reset comes last and writes every element; without it the service is the one operation that clears a
flag, and it comes before the pulses. -/
theorem eventInTheInstantOfServiceIsNotLost : Obligations.EventInTheInstantOfServiceIsNotLost := by
  intro p serve s t completes
  rw [operations_eq] at completes
  obtain ⟨tick, conv, inc, dec⟩ := pending_eq_getLsbD t.el.ifr
  obtain ⟨u, instant, last⟩ := execAll_append_eq_next.mp completes
  have withoutReset (noRst : p.rst = false) : execAll (p.serviceAndRead serve ++ p.pulses) s = .next t := by
    rw [noRst] at last
    rwa [← Host.Outcome.next.inj last]
  have always (i : Instr) : ∀ j ∈ p.serviceAndRead serve ++ p.pulses, j ≠ i → ∀ u v, exec j u = .next v → True → True :=
    fun _ _ _ _ _ _ => id
  refine ⟨fun rst => ?reset, fun noRst clk atLast => ?tick, fun noRst done => ?conv, fun noRst edge => ?inc,
    fun noRst edge => ?dec⟩
  case reset =>
    have cfg : u.cfg = s.cfg := execAll_keeps (P := fun x => x.cfg = s.cfg)
      (fun _ _ _ _ step kept => (exec_cfg step).trans kept) instant rfl
    rw [rst] at last
    obtain ⟨v, reset, done⟩ := execAll_cons_eq_next.mp last
    obtain rfl := Host.Outcome.next.inj done
    obtain ⟨-, -, rfl⟩ := exec_eq_next.mp reset
    exact congrArg Elements.reset cfg
  case tick =>
    rw [← tick]
    refine pending_of_pulse (P := fun x => x.el.tcnt.toNat = 2 ^ x.cfg.tmrBits - 1) (withoutReset noRst)
      (mem_pulses.mpr (.inr (.inl ⟨clk, rfl⟩))) (fun i hi notCount x y step kept => ?_) atLast
      fun _ _ here count => exec_tclk_one_from_last count here
    obtain ⟨notReset, noCount⟩ := operation_before_reset hi notCount
    rw [exec_keeps_timer step notReset noCount, exec_cfg step]
    exact kept
  case conv =>
    rw [← conv]
    refine pending_of_pulse (withoutReset noRst) (mem_pulses.mpr (.inl ⟨done, rfl⟩)) (always _) trivial fun x y _ set => ?_
    obtain ⟨-, -, rfl⟩ := exec_eq_next.mp set
    exact pending_setFlag x.el.ifr .conv .conv
  case inc =>
    rw [← inc]
    refine pending_of_pulse (withoutReset noRst) (mem_pulses.mpr (.inr (.inr (.inl ⟨edge, rfl⟩)))) (always _) trivial
      fun x y _ set => ?_
    obtain ⟨-, -, rfl⟩ := exec_eq_next.mp set
    exact pending_setFlag x.el.ifr .inc .inc
  case dec =>
    rw [← dec]
    refine pending_of_pulse (withoutReset noRst) (mem_pulses.mpr (.inr (.inr (.inr (.inl ⟨edge, rfl⟩))))) (always _) trivial
      fun x y _ set => ?_
    obtain ⟨-, -, rfl⟩ := exec_eq_next.mp set
    exact pending_setFlag x.el.ifr .dec .dec

/-! ### Samples under EA1 -/

/-- A condition that holds along a list of operations under a premise along it, by an invariant that the premise keeps. -/
theorem holdsAlong_of_invariant {p q : Instr → State → Bool} {J : State → Prop} {l : List Instr} {s : State}
    (keeps : ∀ i ∈ l, ∀ u v, J u → p i u = true → exec i u = .next v → J v)
    (implies : ∀ i ∈ l, ∀ u, J u → p i u = true → q i u = true) (start : J s) (premise : holdsAlong p l s = true) :
    holdsAlong q l s = true := by
  induction l generalizing s with
  | nil => rfl
  | cons i l ih =>
    obtain ⟨keepsHead, keepsTail⟩ := List.forall_mem_cons.mp keeps
    obtain ⟨impliesHead, impliesTail⟩ := List.forall_mem_cons.mp implies
    have here : p i s = true := (Bool.and_eq_true_iff.mp premise).1
    rcases exec_next_or_refused i s with ⟨t, completes⟩ | ⟨r, refused⟩
    · rw [holdsAlong_cons_next completes, here, Bool.true_and] at premise
      rw [holdsAlong_cons_next completes, impliesHead s start here, Bool.true_and]
      exact ih keepsTail impliesTail (keepsHead s t start here completes) premise
    · simp only [holdsAlong, refused, impliesHead s start here, Bool.and_true]

/-- A sample that waits for its service is the answer to the last request (R111, R112): `CONVF` is 1 with `ADC_RUN` 0 only. -/
def SampleAnswersRequest (s : State) : Prop := pending s.el.ifr .conv = true → s.el.adcRun = false

theorem sampleAnswersRequest_of_reset {s : State} {c : Cfg} (el : s.el = Elements.reset c) : SampleAnswersRequest s := by
  intro waits
  have none : pending 0#4 .conv = false := by decide
  rw [el, Elements.reset, none] at waits
  exact nomatch waits

/-- The dispatch step requests the next conversion only where it serves `CONVF` (R112, R186). -/
theorem dispatchStep_sampleAnswersRequest {s : State} (h : SampleAnswersRequest s) :
    SampleAnswersRequest (dispatchStep s) := by
  cases served : highestPending s.el.ifr with
  | none => rw [dispatchStep_none served]; exact h
  | some ev =>
    rw [dispatchStep_some served]
    intro waits
    rw [handler_ifr, enterHandler_el, pending_clearFlag, Bool.and_eq_true] at waits
    obtain ⟨notServed, waits⟩ := waits
    obtain ⟨-, -, adcRun, -⟩ := handler_writes ev (s.enterHandler ev)
    have kept : (handler ev (s.enterHandler ev)).el.adcRun = s.el.adcRun := by
      by_contra changed
      rw [adcRun changed] at notServed
      exact nomatch notServed
    rw [kept]
    exact h waits

/-- Every operation of the event layer keeps it (R205). -/
theorem exec_sampleAnswersRequest {i : Instr} {s t : State} (layer : isEventLayer i = true)
    (h : SampleAnswersRequest s) (completes : exec i s = .next t) : SampleAnswersRequest t := by
  obtain ⟨-, -, rfl⟩ := exec_eq_next.mp completes
  cases i with
  | nop => exact h
  | rst => exact sampleAnswersRequest_of_reset rfl
  | adcdone d => exact fun _ => rfl
  | incedge => exact fun waits => h ((pending_setFlag s.el.ifr .inc .conv).symm.trans waits)
  | decedge => exact fun waits => h ((pending_setFlag s.el.ifr .dec .conv).symm.trans waits)
  | tclk n =>
    intro waits
    rw [effectOf, timerCount_el_ifr, pending_setFlagIf] at waits
    exact h (by simpa using waits)
  | pclk n => exact h
  | svc => exact dispatchStep_sampleAnswersRequest (s := s.startOp) h
  | rd reg => exact h
  | _ => exact nomatch layer

/-- Settles O52: under EA1 a conversion completes with `ADC_RUN` 1, so no sample waits. -/
theorem noSampleIsOverwrittenUnderEa1 : Obligations.NoSampleIsOverwrittenUnderEa1 := by
  intro l s _ el layer ea1
  refine holdsAlong_of_invariant (J := SampleAnswersRequest)
    (fun i hi u v h _ completes => exec_sampleAnswersRequest (layer i hi) h completes) (fun i _ u h requested => ?_)
    (sampleAnswersRequest_of_reset el) ea1
  refine decide_eq_true fun isConversion => ?_
  cases i with
  | adcdone d =>
    by_contra waits
    have idle : u.el.adcRun = false := h (Bool.not_eq_false _ ▸ waits)
    exact nomatch idle.symm.trans requested
  | _ => exact nomatch isConversion

/-! ### Control periods under EA2 -/

/-- The dispatch step runs H_TICK iff a tick is pending, and leaves none (R185, R186). -/
theorem dispatchStep_tick (s : State) :
    tickRuns .svc s + (pending (dispatchStep s).el.ifr .tick).toNat = (pending s.el.ifr .tick).toNat := by
  have flags : ∀ f : BitVec 4, (if highestPending f = some .tick then 1 else 0) +
      (pending (flagsAfterService f) .tick).toNat = (pending f .tick).toNat := by decide
  rw [dispatchStep_ifr]
  exact flags s.el.ifr

/-- Counts under EA2 (R206): a wrap is at most one, it finds `TICKF` 0 and leaves it 1. -/
theorem timerCount_tick {n : Imm} {s : State} (ht : s.el.tcnt.toNat < 2 ^ s.cfg.tmrBits)
    (ea2 : ea2Holds (.tclk n) s = true) :
    (pending (timerCount n s).el.ifr .tick).toNat = timerWraps (.tclk n) s + (pending s.el.ifr .tick).toNat := by
  have states := Cfg.two_pow_tmrBits_pos s.cfg
  have set : pending (timerCount n s).el.ifr .tick =
      (decide (2 ^ s.cfg.tmrBits ≤ s.el.tcnt.toNat + n.toNat) || pending s.el.ifr .tick) := by
    rw [timerCount_el_ifr, pending_setFlagIf, countWraps_eq ht]
    simp
  rw [set]
  rcases of_decide_eq_true ea2 with none | ⟨one, clear⟩
  · have below : ¬ 2 ^ s.cfg.tmrBits ≤ s.el.tcnt.toNat + n.toNat := fun h =>
      absurd none (Nat.div_pos h states).ne'
    rw [none, decide_eq_false below, Bool.false_or, Nat.zero_add]
  · have wraps : 2 ^ s.cfg.tmrBits ≤ s.el.tcnt.toNat + n.toNat := by
      by_contra below
      exact absurd one (by rw [timerWraps, Nat.div_eq_of_lt (not_le.mp below)]; decide)
    rw [one, clear, decide_eq_true wraps]
    rfl

/-- Each operation of the event layer but `RST` balances the wraps, the runs of H_TICK and the pending tick, under EA2
(R166, R206). -/
theorem exec_tick_balance {i : Instr} {s t : State} (h : s.Inv) (layer : isEventLayer i = true) (notReset : i ≠ .rst)
    (ea2 : ea2Holds i s = true) (completes : exec i s = .next t) :
    tickRuns i s + (pending t.el.ifr .tick).toNat = timerWraps i s + (pending s.el.ifr .tick).toNat := by
  obtain ⟨-, -, rfl⟩ := exec_eq_next.mp completes
  have kept {f : BitVec 4} (same : pending f .tick = pending s.el.ifr .tick) :
      0 + (pending f .tick).toNat = 0 + (pending s.el.ifr .tick).toNat := by rw [same]
  cases i with
  | rst => exact absurd rfl notReset
  | nop => rfl
  | adcdone d => exact kept (pending_setFlag s.el.ifr .conv .tick)
  | incedge => exact kept (pending_setFlag s.el.ifr .inc .tick)
  | decedge => exact kept (pending_setFlag s.el.ifr .dec .tick)
  | tclk n => exact (Nat.zero_add _).trans (timerCount_tick (s := s.startOp) (Inv_tcnt h) ea2)
  | pclk n => rfl
  | svc => exact (dispatchStep_tick s.startOp).trans (Nat.zero_add _).symm
  | rd reg => rfl
  | _ => exact nomatch layer

/-- Settles O53, by induction over the operations: each one keeps the balance. -/
theorem noControlPeriodIsLostUnderEa2 : Obligations.NoControlPeriodIsLostUnderEa2 := by
  intro l
  induction l with
  | nil =>
    intro s t _ _ _ completes
    obtain rfl := Host.Outcome.next.inj completes
    rfl
  | cons i l ih =>
    intro s t h layer ea2 completes
    obtain ⟨u, first, rest⟩ := execAll_cons_eq_next.mp completes
    obtain ⟨⟨head, notReset⟩, tail⟩ := List.forall_mem_cons.mp layer
    rw [holdsAlong_cons_next first, Bool.and_eq_true] at ea2
    obtain ⟨here, later⟩ := ea2
    have balance := exec_tick_balance h head notReset here first
    have balances := ih u t (exec_inv h first) tail later rest
    rw [sumAlong_cons_next first, sumAlong_cons_next first]
    omega

end Sys2Proof.Machine
end

section
/-! SUPPORT. Proofs of the family of the remaining statements, debounce and the host: the acceptances of a button and the
ticks (R127), and the reads and idle steps that change nothing (R175). -/

namespace Sys2Proof.Machine

/-! ### The debounce counters -/

/-- A handler raises a debounce counter by one at most, and only H_TICK does (R120, R121, R122). -/
theorem handler_debounce_le {s : State} (hc : s.cfg.WellFormed) (ev : Event) :
    (handler ev s).el.debi.toNat ≤ s.el.debi.toNat + (if ev = .tick then 1 else 0) ∧
      (handler ev s).el.debd.toNat ≤ s.el.debd.toNat + (if ev = .tick then 1 else 0) := by
  cases ev with
  | tick =>
    have aged (v : Cell) : (agedCounter s.ops s.cfg v).toNat ≤ v.toNat + 1 :=
      (agedCounter_toNat hc v).trans_le (min_le_left _ _)
    exact ⟨aged s.el.debi, aged s.el.debd⟩
  | conv => exact ⟨le_refl _, le_refl _⟩
  | inc => rw [handler, hInc_el]; split <;> simp
  | dec => rw [handler, hDec_el]; split <;> simp

/-- An operation raises a debounce counter by one at most, and only where it runs H_TICK (R36, R120). -/
theorem exec_debounce_le {i : Instr} {s t : State} (completes : exec i s = .next t) :
    t.el.debi.toNat ≤ s.el.debi.toNat + tickRuns i s ∧ t.el.debd.toNat ≤ s.el.debd.toNat + tickRuns i s := by
  by_cases reset : i = .rst
  · subst reset
    obtain ⟨-, -, rfl⟩ := exec_eq_next.mp completes
    exact ⟨Nat.zero_le _, Nat.zero_le _⟩
  by_cases runs : ∃ ev, handlerRun i s = some ev ∧ ev ≠ .conv
  · obtain ⟨ev, runs, notConv⟩ := runs
    have hc : s.startOp.cfg.WellFormed := (exec_eq_next.mp completes).1
    have counts : tickRuns i s = if ev = .tick then 1 else 0 := by simp only [tickRuns, runs, Option.some.injEq]
    obtain ⟨f, rfl⟩ := exec_eq_handler completes runs notConv
    rw [counts]
    exact handler_debounce_le hc ev
  · obtain ⟨-, -, -, -, -, -, -, debiWriters, debdWriters, -⟩ :=
      onlyTheListedWritersChangeAnElement i s t completes reset
    have debi : t.el.debi = s.el.debi := by
      by_contra changed
      rcases debiWriters changed with run | run
      · exact runs ⟨_, run, nofun⟩
      · exact runs ⟨_, run, nofun⟩
    have debd : t.el.debd = s.el.debd := by
      by_contra changed
      rcases debdWriters changed with run | run
      · exact runs ⟨_, run, nofun⟩
      · exact runs ⟨_, run, nofun⟩
    rw [debi, debd]
    exact ⟨Nat.le_add_right _ _, Nat.le_add_right _ _⟩

/-- An accepted adjustment of the increase button finds its window passed and starts the next one (R121). -/
theorem exec_incAcceptances {i : Instr} {s t : State} (completes : exec i s = .next t) :
    incAcceptances i s = 0 ∨
      incAcceptances i s = 1 ∧ s.cfg.debThresh ≤ s.el.debi.toNat ∧ t.el.debi.toNat = 0 := by
  by_cases h : handlerRun i s = some .inc ∧ incAccepted s = true
  · obtain ⟨runs, accepted⟩ := id h
    have hc : s.startOp.cfg.WellFormed := (exec_eq_next.mp completes).1
    obtain ⟨f, rfl⟩ := exec_eq_handler completes runs nofun
    obtain ⟨-, el⟩ := hInc_accepted (s := s.startOp) hc accepted
    have debi : (hInc s.startOp).el.debi = 0#16 := by rw [el]
    exact .inr ⟨if_pos h, (incAccepted_iff.mp accepted).1, congrArg BitVec.toNat debi⟩
  · exact .inl (if_neg h)

/-- An accepted adjustment of the decrease button finds its window passed and starts the next one (R122). -/
theorem exec_decAcceptances {i : Instr} {s t : State} (completes : exec i s = .next t) :
    decAcceptances i s = 0 ∨
      decAcceptances i s = 1 ∧ s.cfg.debThresh ≤ s.el.debd.toNat ∧ t.el.debd.toNat = 0 := by
  by_cases h : handlerRun i s = some .dec ∧ decAccepted s = true
  · obtain ⟨runs, accepted⟩ := id h
    obtain ⟨f, rfl⟩ := exec_eq_handler completes runs nofun
    obtain ⟨-, el⟩ := hDec_accepted (s := s.startOp) accepted
    have debd : (hDec s.startOp).el.debd = 0#16 := by rw [el]
    exact .inr ⟨if_pos h, (decAccepted_iff.mp accepted).1, congrArg BitVec.toNat debd⟩
  · exact .inl (if_neg h)

section
variable {accepts : Instr → State → Nat} {counter : Elements → Cell}
  (ages : ∀ {i s t}, exec i s = .next t → (counter t.el).toNat ≤ (counter s.el).toNat + tickRuns i s)
  (restarts : ∀ {i s t}, exec i s = .next t →
    accepts i s = 0 ∨ accepts i s = 1 ∧ s.cfg.debThresh ≤ (counter s.el).toNat ∧ (counter t.el).toNat = 0)
include ages restarts

/-- A button whose counter ages by one with H_TICK and restarts with each acceptance: `DEB_THRESH` for each acceptance is
paid by the ticks and by what the counter shows at the start. -/
theorem acceptances_paid_by_ticks (l : List Instr) (s : State) :
    sumAlong accepts l s * s.cfg.debThresh ≤ sumAlong tickRuns l s + min (counter s.el).toNat s.cfg.debThresh := by
  induction l generalizing s with
  | nil => simp [sumAlong]
  | cons i l ih =>
    rcases exec_next_or_refused i s with ⟨t, completes⟩ | ⟨r, refused⟩
    · have later := ih t
      have aged := ages completes
      rw [exec_cfg completes] at later
      rw [sumAlong_cons_next completes, sumAlong_cons_next completes, Nat.add_mul]
      rcases restarts completes with none | ⟨one, passed, zero⟩
      · rw [none, Nat.zero_mul]
        omega
      · rw [one, Nat.one_mul]
        omega
    · simp [sumAlong, refused]

theorem acceptances_le (l : List Instr) {s : State} (thresh : 1 ≤ s.cfg.debThresh) :
    sumAlong accepts l s ≤ sumAlong tickRuns l s / s.cfg.debThresh + 1 := by
  have paid := acceptances_paid_by_ticks ages restarts l s
  rw [← Nat.add_div_right _ thresh, Nat.le_div_iff_mul_le thresh]
  omega

end

/-- Settles O54: the counter of each button pays for its acceptances. -/
theorem acceptancesAreBoundedByTicks : Obligations.AcceptancesAreBoundedByTicks := fun l _ thresh =>
  ⟨acceptances_le (counter := Elements.debi) (fun h => (exec_debounce_le h).1) exec_incAcceptances l thresh,
    acceptances_le (counter := Elements.debd) (fun h => (exec_debounce_le h).2) exec_decAcceptances l thresh⟩

/-- With both counters below the threshold to the end, no adjustment is accepted and a setpoint of 0 stays (R127). -/
theorem execAll_sp_zero {l : List Instr} {s t : State} (sp : s.el.sp.toInt = 0)
    (debi : s.el.debi.toNat + sumAlong tickRuns l s < s.cfg.debThresh)
    (debd : s.el.debd.toNat + sumAlong tickRuns l s < s.cfg.debThresh) (completes : execAll l s = .next t) :
    t.el.sp.toInt = 0 := by
  induction l generalizing s with
  | nil => obtain rfl := Host.Outcome.next.inj completes; exact sp
  | cons i l ih =>
    obtain ⟨u, first, rest⟩ := execAll_cons_eq_next.mp completes
    obtain ⟨debiAged, debdAged⟩ := exec_debounce_le first
    rw [sumAlong_cons_next first] at debi debd
    have kept : u.el.sp.toInt = 0 := by
      obtain zero | same | ⟨-, accepted, -⟩ | ⟨-, accepted, -⟩ := exec_sp_toInt first
      · exact zero
      · exact same.trans sp
      · obtain ⟨passed, -⟩ := incAccepted_iff.mp accepted
        omega
      · obtain ⟨passed, -⟩ := decAccepted_iff.mp accepted
        omega
    exact ih kept (by rw [exec_cfg first]; omega) (by rw [exec_cfg first]; omega) rest

/-- Settles O55: both counters are 0 at reset, so neither reaches the threshold. -/
theorem noAdjustmentBeforeThresholdTicks : Obligations.NoAdjustmentBeforeThresholdTicks := by
  intro l s t el few completes
  have debi : s.el.debi.toNat = 0 := by rw [el]; rfl
  have debd : s.el.debd.toNat = 0 := by rw [el]; rfl
  have sp : s.el.sp.toInt = 0 := by rw [el]; rfl
  exact BitVec.eq_of_toInt_eq (execAll_sp_zero sp (by omega) (by omega) completes)

/-! ### The host -/

/-- A host read and an idle step change no element (R170, R173). -/
theorem exec_host_el {i : Instr} {s t : State} (host : isHostOrIdle i = true) (completes : exec i s = .next t) :
    t.el = s.el := by
  obtain ⟨-, -, rfl⟩ := exec_eq_next.mp completes
  cases i with
  | nop => rfl
  | rd reg => rfl
  | _ => exact nomatch host

/-- Under INV an operation that can happen completes alike from any state with the same `CFG` and elements. -/
theorem exec_el_congr {i : Instr} {s s' : State} (h : s.Inv) (cfg : s'.cfg = s.cfg) (el : s'.el = s.el)
    (wf : i.wf s.cfg = true) : ∃ t t', exec i s = .next t ∧ exec i s' = .next t' ∧ t'.el = t.el := by
  have h' : s'.Inv := Inv_congr cfg el h
  have completes := exec_next (Inv_cfg h) (stated_of_wf wf (Inv_duty h))
  have completes' := exec_next (Inv_cfg h') (stated_of_wf (cfg.symm ▸ wf) (Inv_duty h'))
  exact ⟨_, _, completes, completes', effectOf_el_congr (s := s'.startOp) (s' := s.startOp) h' h cfg el i⟩

/-- Settles O56, by induction over the operations: the two runs keep the same `CFG` and elements, the one ahead of the
other by reads and idle steps only. -/
theorem hostReadsDoNotAffectTheRun : Obligations.HostReadsDoNotAffectTheRun := by
  intro l
  induction l with
  | nil => exact fun s s' _ _ el _ => ⟨s, s', rfl, rfl, el.symm⟩
  | cons i l ih =>
    intro s s' h cfg el legal
    obtain ⟨wf, tail⟩ := List.forall_mem_cons.mp legal
    obtain ⟨u, u', first, first', same⟩ := exec_el_congr h cfg el wf
    have hu := exec_inv h first
    have ucfg := exec_cfg first
    rw [← ucfg] at tail
    cases host : isHostOrIdle i with
    | true =>
      have stays : s'.el = u.el := el.trans (exec_host_el host first).symm
      obtain ⟨t, t', rest, rest', final⟩ := ih u s' hu (cfg.trans ucfg.symm) stays tail
      exact ⟨t, t', (execAll_cons_next first).trans rest, by simpa [host] using rest', final⟩
    | false =>
      have cfg' : u'.cfg = u.cfg := (exec_cfg first').trans (cfg.trans ucfg.symm)
      obtain ⟨t, t', rest, rest', final⟩ := ih u u' hu cfg' same tail
      refine ⟨t, t', (execAll_cons_next first).trans rest, ?_, final⟩
      rw [List.filter_cons_of_pos (by simp [host]), execAll_cons_next first', rest']

end Sys2Proof.Machine
end
